-- ==== Sys2Proof/Word.lean ====
section
/-! DEFINITION. The word types of RustBoy CORE (spec 00_scope.md R6): every value is an unsigned number of a
fixed width, and nothing is ever sign-extended. -/

namespace Sys2Proof

/-- A 4-bit field of the opcode (R6: "nibble"). -/
abbrev Nibble := BitVec 4

/-- A memory cell, a general register or a timer: 8 bits (10_state.md R21, R28; 20_memory.md R60). -/
abbrev Byte := BitVec 8

/-- The 12-bit immediate `nnn`, always an address (30_encoding.md R91). -/
abbrev Addr12 := BitVec 12

/-- The index register, the program counter, a return address or an opcode: 16 bits (10_state.md R23, R24, R27). -/
abbrev Word := BitVec 16

/-- The index of a general register, `V[0]` .. `V[15]` (10_state.md R21). -/
abbrev RegIx := Nibble

/-- The code of a key, 0 .. 15 (60_exceptions.md R256). -/
abbrev KeyCode := Nibble

end Sys2Proof
end

