-- ==== Sys2Proof/Config.lean ====
section
/-! DEFINITION. What an instantiation of RustBoy CORE fixes (00_scope.md R5) and the one free value of the
machine, the random draw of `Cxkk` (60_exceptions.md R259). The default values are in Machine/Params.lean. -/

namespace Sys2Proof

/-- The parameter SKIP5_SENSE (00_scope.md R5, 41_flow.md R146; spec decision D1): when `5xy0` skips.
DESIGN CHOICE (log entry 10). -/
inductive Skip5Sense where
  /-- Skip when the registers differ: the value this hardware takes. -/
  | notEqual
  /-- Skip when the registers are equal: the canonical reading. -/
  | equal
  deriving DecidableEq, Repr

/-- The parameter JP_V0_FORM (00_scope.md R5, 41_flow.md R148; spec decision D2): the target of `Bnnn`.
DESIGN CHOICE (log entry 11). -/
inductive JpV0Form where
  /-- `nnn + V[0]`: the value this hardware takes. -/
  | sum
  /-- `nnn & ((0xFFF + V[0]) mod 65536)`: the reference's defect as far as the source reports it. -/
  | referenceAnd
  deriving DecidableEq, Repr

/-- The shape of the parameter FONT: the 80 bytes of the glyph table, one for each of the addresses 0 .. 79 (00_scope.md
R5, 10_state.md R37). -/
abbrev Font := Vector Byte 80

/-- The parameters R5 keeps open. A state carries them, so a claim about every state is a claim about every
instantiation (log entry 1, DESIGN CHOICE). -/
structure Config where
  /-- STEPS_PER_TICK (40_cycle.md R126; decision D7). -/
  stepsPerTick : Nat
  /-- STACK_CAPACITY (10_state.md R27; decision D6); `none` is unbounded. -/
  stackCapacity : Option Nat
  /-- DISPLAY_W (44_display.md R212; decision D5). -/
  displayW : Nat
  /-- DISPLAY_H (44_display.md R212; decision D5). -/
  displayH : Nat
  /-- FONT (10_state.md R37; decision D8, log entry 8). -/
  font : Font
  /-- SKIP5_SENSE. -/
  skip5Sense : Skip5Sense
  /-- JP_V0_FORM. -/
  jpV0Form : JpV0Form
  deriving DecidableEq, Repr

/-- FREE VALUE (log entry 6). The byte that the `k`-th random draw returns: "any value 0 .. 255, unrelated to
every other draw and to the state" (60_exceptions.md R259, treatment U10). Nothing constrains it. -/
opaque Config.randomByte : Nat → Byte

end Sys2Proof
end

