-- ==== Sys2Proof/Machine/Params.lean ====
section
/-! DEFINITION. The values this hardware takes for the parameters of 00_scope.md R5 and the constants of the memory
map (20_memory.md R60, R62). -/

namespace Sys2Proof.Machine

/-- MEM_SIZE: addresses 0 .. 4095 exist (20_memory.md R60). -/
def memSize : Nat := 4096

/-- PROGRAM_BASE: where LoadProgram puts the first byte (20_memory.md R62, 40_cycle.md R121). -/
def programBase : Nat := 0x200

/-- The largest program, 4096 - 0x200 = 3584 bytes (20_memory.md R62). -/
def programMax : Nat := memSize - programBase

/-- PC_RESET (10_state.md R36). -/
def pcReset : Word := 0x200

/-- The bytes this hardware takes for FONT, 16 glyphs of 5 bytes each (10_state.md R37). They are not in the source:
PRESUMED (spec decision D8, log entry 8). -/
def fontTable : List Byte :=
  [0xF0, 0x90, 0x90, 0x90, 0xF0, 0x20, 0x60, 0x20, 0x20, 0x70, 0xF0, 0x10, 0xF0, 0x80, 0xF0] ++
  [0xF0, 0x10, 0xF0, 0x10, 0xF0, 0x90, 0x90, 0xF0, 0x10, 0x10, 0xF0, 0x80, 0xF0, 0x10, 0xF0] ++
  [0xF0, 0x80, 0xF0, 0x90, 0xF0, 0xF0, 0x10, 0x20, 0x40, 0x40, 0xF0, 0x90, 0xF0, 0x90, 0xF0] ++
  [0xF0, 0x90, 0xF0, 0x10, 0xF0, 0xF0, 0x90, 0xF0, 0x90, 0x90, 0xE0, 0x90, 0xE0, 0x90, 0xE0] ++
  [0xF0, 0x80, 0x80, 0x80, 0xF0, 0xE0, 0x90, 0x90, 0x90, 0xE0, 0xF0, 0x80, 0xF0, 0x80, 0xF0] ++
  [0xF0, 0x80, 0xF0, 0x80, 0x80]

/-- The default of the parameter FONT (00_scope.md R5; spec decision D8, log entry 8). -/
def defaultFont : Font := ⟨⟨fontTable⟩, rfl⟩

/-- What a cell that is not listed in memory reads as: its reset content, FONT in 0 .. 79 (10_state.md R37) and 0x00
above (R38; DESIGN CHOICE, spec decision D9, log entry 9). -/
def unlisted (font : Font) (addr : Nat) : Byte := if h : addr < 80 then font[addr] else 0x00

/-- The default parameters of R5: 10 steps a Tick (D7, log entry 14), an unbounded call stack (D6, log entry 13), a
display of 64 by 32 pixels (D5, PRESUMED, log entry 12), the customary font (D8, PRESUMED, log entry 8), `5xy0` skipping on not equal (D1, log entry 10) and `Bnnn`
jumping to the sum (D2, log entry 11). -/
def defaultConfig : Config where
  stepsPerTick := 10
  stackCapacity := none
  displayW := 64
  displayH := 32
  font := defaultFont
  skip5Sense := .notEqual
  jpV0Form := .sum

/-- The reset value of `V[0]` .. `V[15]` (10_state.md R35; DESIGN CHOICE, spec decision D9, log entry 7). -/
def resetV : Vector Byte 16 := Vector.replicate 16 0x00

/-- The reset value of `I` (10_state.md R35; DESIGN CHOICE, spec decision D9, log entry 7). -/
def resetI : Word := 0x0000

/-- The reset value of `DT` and of `ST` (10_state.md R35; DESIGN CHOICE, spec decision D9, log entry 7). -/
def resetTimer : Byte := 0x00

/-- The all-clear bitmap: `h` rows of `w` pixels, each off (60_exceptions.md R252). -/
def clearBitmap (w h : Nat) : List (List Bool) := List.replicate h (List.replicate w false)

/-- The input device after reset: every key up (10_state.md R39; DESIGN CHOICE, spec decision D25, log entry 5). -/
def resetKeys : Vector Bool 16 := Vector.replicate 16 false

end Sys2Proof.Machine
end

