-- ==== Sys2Proof/Machine/State.lean ====
section
/-! DEFINITION. The state of RustBoy CORE (10_state.md R20) with the devices it consumes (60_exceptions.md R252,
R256), its fatal faults (R240), its refusals and the state after Reset (R35, 70_reset_and_hazards.md R280). -/

namespace Sys2Proof.Machine

/-- The observable events of 00_scope.md R9; outputs only, nothing reads them (spec decision D21). -/
inductive Event where
  /-- The request `Display.clear()` of `00E0`. -/
  | displayClear
  /-- The request `Display.toggle(px, py)` of `Dxyn`. -/
  | displayToggle (px py : Nat)
  /-- The non-fatal report of a word no row of the opcode map selects, fetched at `addr` (60_exceptions.md R248). -/
  | unknownOpcode (opcode addr : Word)
  deriving DecidableEq, Repr

/-- The fatal faults of 60_exceptions.md R240, each with the information the table records; `a` is the address of the
faulting instruction. A fault has no successor state (00_scope.md R8). -/
inductive Fault where
  /-- Code 1. Raised by `00EE` on the empty call stack (R241); the source's own fault. Safe. -/
  | stackUnderflow (a : Word)
  /-- Code 2. Raised by `8xy7` when the minuend is smaller (R242; spec decision D3). Safe: the run stops where an
  implementation might wrap. -/
  | arithmeticUnderflow (a : Word)
  /-- Code 3. Raised by the fetch, `Dxyn`, `Fx33`, `Fx55` and `Fx65` at an address of 4096 or more; `addr` is the
  first offending address (R243; spec decision D14). Safe. -/
  | memoryOutOfBounds (a : Word) (addr : Nat)
  /-- Code 4. Raised by `Fx1E` when the sum exceeds 0xFFFF (R244; spec decision D15). Safe: the run stops where an
  implementation might wrap. -/
  | indexOverflow (a : Word)
  /-- Code 5. Raised by `Ex9E` and `ExA1` when `V[x]`, recorded as `v`, is no key code (R245; spec decision D16).
  Safe: the run stops where an implementation might answer. -/
  | keyOutOfRange (a : Word) (v : Byte)
  /-- Code 6. Raised by `2nnn` under a finite STACK_CAPACITY when the stack is full (R246; spec decision D6). Safe. -/
  | stackOverflow (a : Word)
  /-- Code 7. Raised by LoadProgram for more than 3584 bytes (R247; spec decision D17). Safe. -/
  | programTooLarge (len : Nat)
  deriving DecidableEq, Repr

/-- Why an operation has no meaning in the model. -/
inductive Refusal where
  /-- An instruction without a meaning, rejected by its mnemonic in `exec`; no arm of `exec` raises it. Safe. -/
  | notModelled (mnemonic : String)
  /-- LoadProgram when the core is not as Reset produced it: "a model gives it no transition" (40_cycle.md R121,
  treatment U19). Raised by `loadProgram`, never by a Step. Safe. -/
  | loadNotAtReset
  deriving DecidableEq, Repr

/-- The machine's state. The first nine fields are the core's state (10_state.md R20), `display` and `keys` the
devices' (60_exceptions.md R252, R256), `events`, `draws` and `cfg` the model's own (log entries 3, 6, 1). -/
structure State where
  /-- `V[0]` .. `V[15]` (R21). -/
  v : Vector Byte 16
  /-- The index register `I` (R23). -/
  i : Word
  /-- The program counter (R24). -/
  pc : Word
  /-- The call stack, last element = top (R20, R27). -/
  stack : List Word
  /-- The delay timer `DT` (R28). -/
  dt : Byte
  /-- The sound timer `ST` (R28). -/
  st : Byte
  /-- `true` = AwaitingKey, `false` = Running (R29). -/
  paused : Bool
  /-- The register index recorded by `Fx0A` (R29). -/
  pending : RegIx
  /-- The cells of memory that differ from `unlisted`, addresses strictly rising (20_memory.md R60). -/
  mem : List Host.Cell
  /-- The display's bitmap, rows from the top, pixels of a row from the left, `true` = on (60_exceptions.md R252). -/
  display : List (List Bool)
  /-- The key levels, `true` = down (60_exceptions.md R256). -/
  keys : Vector Bool 16
  /-- The events emitted so far, oldest first (00_scope.md R9). -/
  events : List Event
  /-- How many random draws have been consumed (60_exceptions.md R259). -/
  draws : Nat
  /-- The parameters of this instantiation (00_scope.md R5); no operation writes them. -/
  cfg : Config
  deriving DecidableEq, Repr

/-- The state Reset produces in the instantiation `c` (70_reset_and_hazards.md R280, 10_state.md R35 to R39). -/
def State.resetWith (c : Config) : State where
  v := resetV
  i := resetI
  pc := pcReset
  stack := []
  dt := resetTimer
  st := resetTimer
  paused := false
  pending := 0
  mem := []
  display := clearBitmap c.displayW c.displayH
  keys := resetKeys
  events := []
  draws := 0
  cfg := c

/-- The machine right after reset, with the default parameters of 00_scope.md R5. -/
def State.reset : State := State.resetWith defaultConfig

end Sys2Proof.Machine
end

