-- ==== Sys2Proof/Machine/Flags.lean ====
section
/-! DEFINITION. The flag computations of 10_state.md R22, the ALU results of 42_alu.md and the skip conditions of
41_flow.md, as functions of the operand bytes. -/

namespace Sys2Proof.Machine

/-- 1 or 0. -/
def flagOf (condition : Bool) : Byte := if condition then 1 else 0

/-- The 9-bit sum of `8xy4`, computed once (42_alu.md R168). -/
def sum9 (a b : Byte) : Nat := a.toNat + b.toNat

/-- `s[7:0]` of a sum (42_alu.md R163, R168). -/
def addResult (a b : Byte) : Byte := BitVec.ofNat 8 (sum9 a b)

/-- The carry out of bit 7: 1 if the 9-bit sum exceeds 255 (42_alu.md R168). -/
def carryFlag (a b : Byte) : Byte := flagOf (255 < sum9 a b)

/-- `(a - b) mod 256` (42_alu.md R169). -/
def subResult (a b : Byte) : Byte := a - b

/-- The flag of `8xy5` and `8xy7`: 1 exactly when the minuend is strictly greater (42_alu.md R169, R171). -/
def greaterFlag (minuend subtrahend : Byte) : Byte := flagOf (subtrahend.toNat < minuend.toNat)

/-- The flag of `8xy6`: the bit shifted out, 0 or 1 (42_alu.md R170). -/
def shrFlag (a : Byte) : Byte := a &&& 0x01

/-- The result of `8xy6`: a logical shift by one, bit 7 becomes 0 (42_alu.md R170). -/
def shrResult (a : Byte) : Byte := a >>> 1

/-- The flag of `8xyE`: the masked bit, 0x00 or 0x80, not normalised (42_alu.md R172; treatment U20, log entry 32). -/
def shlFlag (a : Byte) : Byte := a &&& 0x80

/-- The result of `8xyE`: a shift by one, bit 0 becomes 0, the overflow is dropped (42_alu.md R172). -/
def shlResult (a : Byte) : Byte := a <<< 1

/-- The skip condition of `5xy0` (41_flow.md R146); which sense is the parameter SKIP5_SENSE (log entry 10). -/
def skip5 (sense : Skip5Sense) (a b : Byte) : Bool :=
  match sense with
  | .notEqual => a != b
  | .equal => a == b

end Sys2Proof.Machine
end

