-- ==== Sys2Proof/Syntax.lean ====
section
/-! DEFINITION. The instructions of RustBoy CORE: one constructor per row of spec/opcode_table.json
(30_encoding.md R94), with the operand fields of R91. -/

namespace Sys2Proof

/-- The 34 instructions. `x` and `y` name general registers, `kk` is an 8-bit, `nnn` a 12-bit and `n` a 4-bit
immediate. -/
inductive Instr where
  /-- `00E0` CLS (44_display.md R211). -/
  | cls
  /-- `00EE` RET (41_flow.md R141). -/
  | ret
  /-- `1nnn` JP nnn (41_flow.md R142). -/
  | jp (nnn : Addr12)
  /-- `2nnn` CALL nnn (41_flow.md R143). -/
  | call (nnn : Addr12)
  /-- `3xkk` SE Vx, kk (41_flow.md R144). -/
  | seImm (x : RegIx) (kk : Byte)
  /-- `4xkk` SNE Vx, kk (41_flow.md R145). -/
  | sneImm (x : RegIx) (kk : Byte)
  /-- `5xy0` SNE5 Vx, Vy (41_flow.md R146). -/
  | sne5 (x y : RegIx)
  /-- `6xkk` LD Vx, kk (42_alu.md R162). -/
  | ldImm (x : RegIx) (kk : Byte)
  /-- `7xkk` ADD Vx, kk (42_alu.md R163). -/
  | addImm (x : RegIx) (kk : Byte)
  /-- `8xy0` LD Vx, Vy (42_alu.md R164). -/
  | ldReg (x y : RegIx)
  /-- `8xy1` OR Vx, Vy (42_alu.md R165). -/
  | orReg (x y : RegIx)
  /-- `8xy2` AND Vx, Vy (42_alu.md R166). -/
  | andReg (x y : RegIx)
  /-- `8xy3` XOR Vx, Vy (42_alu.md R167). -/
  | xorReg (x y : RegIx)
  /-- `8xy4` ADD Vx, Vy (42_alu.md R168). -/
  | addReg (x y : RegIx)
  /-- `8xy5` SUB Vx, Vy (42_alu.md R169). -/
  | subReg (x y : RegIx)
  /-- `8xy6` SHR Vx (42_alu.md R170); the field `y` is kept because R96 lets it be anything and ignores it. -/
  | shr (x y : RegIx)
  /-- `8xy7` SUBN Vx, Vy (42_alu.md R171). -/
  | subn (x y : RegIx)
  /-- `8xyE` SHL Vx (42_alu.md R172); the field `y` is kept because R96 lets it be anything and ignores it. -/
  | shl (x y : RegIx)
  /-- `9xy0` SNE Vx, Vy (41_flow.md R147). -/
  | sneReg (x y : RegIx)
  /-- `Annn` LD I, nnn (43_index_memory.md R191). -/
  | ldI (nnn : Addr12)
  /-- `Bnnn` JP V0, nnn (41_flow.md R148). -/
  | jpV0 (nnn : Addr12)
  /-- `Cxkk` RND Vx, kk (42_alu.md R173). -/
  | rnd (x : RegIx) (kk : Byte)
  /-- `Dxyn` DRW Vx, Vy, n (44_display.md R212). -/
  | drw (x y : RegIx) (n : Nibble)
  /-- `Ex9E` SKP Vx (45_keypad_timers.md R221). -/
  | skp (x : RegIx)
  /-- `ExA1` SKNP Vx (45_keypad_timers.md R222). -/
  | sknp (x : RegIx)
  /-- `Fx07` LD Vx, DT (45_keypad_timers.md R223). -/
  | ldVxDT (x : RegIx)
  /-- `Fx0A` LD Vx, K (45_keypad_timers.md R224). -/
  | ldVxK (x : RegIx)
  /-- `Fx15` LD DT, Vx (45_keypad_timers.md R225). -/
  | ldDTVx (x : RegIx)
  /-- `Fx18` LD ST, Vx (45_keypad_timers.md R226). -/
  | ldSTVx (x : RegIx)
  /-- `Fx1E` ADD I, Vx (43_index_memory.md R192). -/
  | addI (x : RegIx)
  /-- `Fx29` LD F, Vx (43_index_memory.md R193). -/
  | ldF (x : RegIx)
  /-- `Fx33` LD B, Vx (43_index_memory.md R194). -/
  | ldB (x : RegIx)
  /-- `Fx55` LD [I], Vx (43_index_memory.md R195). -/
  | ldMemVx (x : RegIx)
  /-- `Fx65` LD Vx, [I] (43_index_memory.md R196). -/
  | ldVxMem (x : RegIx)
  deriving DecidableEq, Repr

end Sys2Proof
end

