-- ==== Sys2Proof/Decode.lean ====
section
/-! DEFINITION. Decoding and encoding (30_encoding.md): the fields of the opcode (R91), the opcode map (R94), the
decoder, total on any bytes and rejecting by name (R95, R97, R102), and the encoder. -/

namespace Sys2Proof

/-- The field `fam`, bits 15..12 (R91). -/
def opFam (w : Word) : Nibble := w.extractLsb' 12 4

/-- The field `x`, bits 11..8 (R91). -/
def opX (w : Word) : RegIx := w.extractLsb' 8 4

/-- The field `y`, bits 7..4 (R91). -/
def opY (w : Word) : RegIx := w.extractLsb' 4 4

/-- The field `n`, bits 3..0 (R91). -/
def opN (w : Word) : Nibble := w.extractLsb' 0 4

/-- The field `kk`, bits 7..0 (R91). -/
def opKK (w : Word) : Byte := w.extractLsb' 0 8

/-- The field `nnn`, bits 11..0 (R91). -/
def opNNN (w : Word) : Addr12 := w.extractLsb' 0 12

/-- Why bytes give no instruction. -/
inductive Reject where
  /-- No row of the opcode map matches the opcode (R97). Not a trap: Step reports it and goes on (40_cycle.md
  R124). -/
  | unknownOpcode (opcode : Word)
  /-- Fewer than the two bytes of an opcode (R90). -/
  | tooShort (length : Nat)
  deriving DecidableEq, Repr

/-- Family 0: the whole low 12 bits are matched (R95). -/
def decodeFam0 (w : Word) : Except Reject Instr :=
  match opNNN w with
  | 0x0E0#12 => .ok .cls
  | 0x0EE#12 => .ok .ret
  | _ => .error (.unknownOpcode w)

/-- Family 5: the low nibble must be 0 (R95, 90_conflicts.md C3). -/
def decodeFam5 (w : Word) : Except Reject Instr :=
  match opN w with
  | 0x0#4 => .ok (.sne5 (opX w) (opY w))
  | _ => .error (.unknownOpcode w)

/-- Family 8: the low nibble selects the function (R95). -/
def decodeFam8 (w : Word) : Except Reject Instr :=
  match opN w with
  | 0x0#4 => .ok (.ldReg (opX w) (opY w))
  | 0x1#4 => .ok (.orReg (opX w) (opY w))
  | 0x2#4 => .ok (.andReg (opX w) (opY w))
  | 0x3#4 => .ok (.xorReg (opX w) (opY w))
  | 0x4#4 => .ok (.addReg (opX w) (opY w))
  | 0x5#4 => .ok (.subReg (opX w) (opY w))
  | 0x6#4 => .ok (.shr (opX w) (opY w))
  | 0x7#4 => .ok (.subn (opX w) (opY w))
  | 0xE#4 => .ok (.shl (opX w) (opY w))
  | _ => .error (.unknownOpcode w)

/-- Family 9: the low nibble must be 0 (R95, 90_conflicts.md C3). -/
def decodeFam9 (w : Word) : Except Reject Instr :=
  match opN w with
  | 0x0#4 => .ok (.sneReg (opX w) (opY w))
  | _ => .error (.unknownOpcode w)

/-- Family E: the low byte selects the function (R95). -/
def decodeFamE (w : Word) : Except Reject Instr :=
  match opKK w with
  | 0x9E#8 => .ok (.skp (opX w))
  | 0xA1#8 => .ok (.sknp (opX w))
  | _ => .error (.unknownOpcode w)

/-- Family F: the low byte selects the function (R95). -/
def decodeFamF (w : Word) : Except Reject Instr :=
  match opKK w with
  | 0x07#8 => .ok (.ldVxDT (opX w))
  | 0x0A#8 => .ok (.ldVxK (opX w))
  | 0x15#8 => .ok (.ldDTVx (opX w))
  | 0x18#8 => .ok (.ldSTVx (opX w))
  | 0x1E#8 => .ok (.addI (opX w))
  | 0x29#8 => .ok (.ldF (opX w))
  | 0x33#8 => .ok (.ldB (opX w))
  | 0x55#8 => .ok (.ldMemVx (opX w))
  | 0x65#8 => .ok (.ldVxMem (opX w))
  | _ => .error (.unknownOpcode w)

/-- The decoder (R94, R95, R102): first the family, then the secondary field of families 0, 5, 8, 9, E and F. The
encodings R98 names as doubtful are unknown opcodes (R97, 90_conflicts.md C3, log entry 15). -/
def decode (w : Word) : Except Reject Instr :=
  match opFam w with
  | 0x0#4 => decodeFam0 w
  | 0x1#4 => .ok (.jp (opNNN w))
  | 0x2#4 => .ok (.call (opNNN w))
  | 0x3#4 => .ok (.seImm (opX w) (opKK w))
  | 0x4#4 => .ok (.sneImm (opX w) (opKK w))
  | 0x5#4 => decodeFam5 w
  | 0x6#4 => .ok (.ldImm (opX w) (opKK w))
  | 0x7#4 => .ok (.addImm (opX w) (opKK w))
  | 0x8#4 => decodeFam8 w
  | 0x9#4 => decodeFam9 w
  | 0xA#4 => .ok (.ldI (opNNN w))
  | 0xB#4 => .ok (.jpV0 (opNNN w))
  | 0xC#4 => .ok (.rnd (opX w) (opKK w))
  | 0xD#4 => .ok (.drw (opX w) (opY w) (opN w))
  | 0xE#4 => decodeFamE w
  | 0xF#4 => decodeFamF w
  | _ => .error (.unknownOpcode w)

/-- The opcode from its two cells, the high byte at the lower address (20_memory.md R63). -/
def opcodeOf (hi lo : Byte) : Word := hi ++ lo

/-- The high byte of an opcode, the cell at the lower address (20_memory.md R63). -/
def hiByte (w : Word) : Byte := w.extractLsb' 8 8

/-- The low byte of an opcode, the cell at the higher address (20_memory.md R63). -/
def loByte (w : Word) : Byte := w.extractLsb' 0 8

/-- Decoding any bytes, lowest address first: exactly two are consumed (R90). -/
def decodeBytes : List Byte → Except Reject (Instr × List Byte)
  | hi :: lo :: rest =>
    match decode (opcodeOf hi lo) with
    | .ok i => .ok (i, rest)
    | .error r => .error r
  | bytes => .error (.tooShort bytes.length)

/-- Format A of R92: `fam`, then `nnn`. -/
def formatA (fam : Nibble) (nnn : Addr12) : Word := fam ++ nnn

/-- Formats K and X of R92: `fam`, `x`, then a byte (an immediate or a function byte). -/
def formatK (fam : Nibble) (x : RegIx) (kk : Byte) : Word := fam ++ (x ++ kk)

/-- Formats R and D of R92: `fam`, `x`, `y`, then a nibble (a function nibble or `n`). -/
def formatR (fam : Nibble) (x y : RegIx) (n : Nibble) : Word := fam ++ (x ++ (y ++ n))

/-- The encoder, written from the patterns of R94. -/
def encode : Instr → Word
  | .cls => formatA 0x0 0x0E0
  | .ret => formatA 0x0 0x0EE
  | .jp nnn => formatA 0x1 nnn
  | .call nnn => formatA 0x2 nnn
  | .seImm x kk => formatK 0x3 x kk
  | .sneImm x kk => formatK 0x4 x kk
  | .sne5 x y => formatR 0x5 x y 0x0
  | .ldImm x kk => formatK 0x6 x kk
  | .addImm x kk => formatK 0x7 x kk
  | .ldReg x y => formatR 0x8 x y 0x0
  | .orReg x y => formatR 0x8 x y 0x1
  | .andReg x y => formatR 0x8 x y 0x2
  | .xorReg x y => formatR 0x8 x y 0x3
  | .addReg x y => formatR 0x8 x y 0x4
  | .subReg x y => formatR 0x8 x y 0x5
  | .shr x y => formatR 0x8 x y 0x6
  | .subn x y => formatR 0x8 x y 0x7
  | .shl x y => formatR 0x8 x y 0xE
  | .sneReg x y => formatR 0x9 x y 0x0
  | .ldI nnn => formatA 0xA nnn
  | .jpV0 nnn => formatA 0xB nnn
  | .rnd x kk => formatK 0xC x kk
  | .drw x y n => formatR 0xD x y n
  | .skp x => formatK 0xE x 0x9E
  | .sknp x => formatK 0xE x 0xA1
  | .ldVxDT x => formatK 0xF x 0x07
  | .ldVxK x => formatK 0xF x 0x0A
  | .ldDTVx x => formatK 0xF x 0x15
  | .ldSTVx x => formatK 0xF x 0x18
  | .addI x => formatK 0xF x 0x1E
  | .ldF x => formatK 0xF x 0x29
  | .ldB x => formatK 0xF x 0x33
  | .ldMemVx x => formatK 0xF x 0x55
  | .ldVxMem x => formatK 0xF x 0x65

/-- The two cells of an encoded instruction, lowest address first (R90, 20_memory.md R63). -/
def encodeBytes (i : Instr) : List Byte := [hiByte (encode i), loByte (encode i)]

/-- One row of the opcode map: an opcode `w` selects the row if and only if `w & mask = pattern` (R94). -/
structure OpcodeRow where
  /-- The mask column of R94. -/
  mask : Word
  /-- The match column of R94. -/
  pattern : Word
  deriving DecidableEq, Repr

/-- `opcode & mask = match` (R94). -/
def OpcodeRow.selects (r : OpcodeRow) (w : Word) : Bool := w &&& r.mask == r.pattern

/-- The opcode map of R94, rows 1 to 34 in the table's order. -/
def opcodeMap : List OpcodeRow :=
  [⟨0xFFFF, 0x00E0⟩, ⟨0xFFFF, 0x00EE⟩, ⟨0xF000, 0x1000⟩, ⟨0xF000, 0x2000⟩, ⟨0xF000, 0x3000⟩, ⟨0xF000, 0x4000⟩,
   ⟨0xF00F, 0x5000⟩, ⟨0xF000, 0x6000⟩, ⟨0xF000, 0x7000⟩] ++
  [⟨0xF00F, 0x8000⟩, ⟨0xF00F, 0x8001⟩, ⟨0xF00F, 0x8002⟩, ⟨0xF00F, 0x8003⟩, ⟨0xF00F, 0x8004⟩, ⟨0xF00F, 0x8005⟩,
   ⟨0xF00F, 0x8006⟩, ⟨0xF00F, 0x8007⟩, ⟨0xF00F, 0x800E⟩] ++
  [⟨0xF00F, 0x9000⟩, ⟨0xF000, 0xA000⟩, ⟨0xF000, 0xB000⟩, ⟨0xF000, 0xC000⟩, ⟨0xF000, 0xD000⟩, ⟨0xF0FF, 0xE09E⟩,
   ⟨0xF0FF, 0xE0A1⟩] ++
  [⟨0xF0FF, 0xF007⟩, ⟨0xF0FF, 0xF00A⟩, ⟨0xF0FF, 0xF015⟩, ⟨0xF0FF, 0xF018⟩, ⟨0xF0FF, 0xF01E⟩, ⟨0xF0FF, 0xF029⟩,
   ⟨0xF0FF, 0xF033⟩, ⟨0xF0FF, 0xF055⟩, ⟨0xF0FF, 0xF065⟩]

/-- The row of the opcode map an instruction belongs to (R94, sixth column). -/
def Instr.row : Instr → OpcodeRow
  | .cls => ⟨0xFFFF, 0x00E0⟩
  | .ret => ⟨0xFFFF, 0x00EE⟩
  | .jp _ => ⟨0xF000, 0x1000⟩
  | .call _ => ⟨0xF000, 0x2000⟩
  | .seImm _ _ => ⟨0xF000, 0x3000⟩
  | .sneImm _ _ => ⟨0xF000, 0x4000⟩
  | .sne5 _ _ => ⟨0xF00F, 0x5000⟩
  | .ldImm _ _ => ⟨0xF000, 0x6000⟩
  | .addImm _ _ => ⟨0xF000, 0x7000⟩
  | .ldReg _ _ => ⟨0xF00F, 0x8000⟩
  | .orReg _ _ => ⟨0xF00F, 0x8001⟩
  | .andReg _ _ => ⟨0xF00F, 0x8002⟩
  | .xorReg _ _ => ⟨0xF00F, 0x8003⟩
  | .addReg _ _ => ⟨0xF00F, 0x8004⟩
  | .subReg _ _ => ⟨0xF00F, 0x8005⟩
  | .shr _ _ => ⟨0xF00F, 0x8006⟩
  | .subn _ _ => ⟨0xF00F, 0x8007⟩
  | .shl _ _ => ⟨0xF00F, 0x800E⟩
  | .sneReg _ _ => ⟨0xF00F, 0x9000⟩
  | .ldI _ => ⟨0xF000, 0xA000⟩
  | .jpV0 _ => ⟨0xF000, 0xB000⟩
  | .rnd _ _ => ⟨0xF000, 0xC000⟩
  | .drw _ _ _ => ⟨0xF000, 0xD000⟩
  | .skp _ => ⟨0xF0FF, 0xE09E⟩
  | .sknp _ => ⟨0xF0FF, 0xE0A1⟩
  | .ldVxDT _ => ⟨0xF0FF, 0xF007⟩
  | .ldVxK _ => ⟨0xF0FF, 0xF00A⟩
  | .ldDTVx _ => ⟨0xF0FF, 0xF015⟩
  | .ldSTVx _ => ⟨0xF0FF, 0xF018⟩
  | .addI _ => ⟨0xF0FF, 0xF01E⟩
  | .ldF _ => ⟨0xF0FF, 0xF029⟩
  | .ldB _ => ⟨0xF0FF, 0xF033⟩
  | .ldMemVx _ => ⟨0xF0FF, 0xF055⟩
  | .ldVxMem _ => ⟨0xF0FF, 0xF065⟩

/-- Whether R98 names the opcode as one whose decoding the source leaves in doubt: `5xyn` and `9xyn` with n other
than 0; `0nnn` ending in E0 or EE with x other than 0; `Exkk` whose low nibble is E or 1 without being `Ex9E` or
`ExA1`. The machine runs them as unknown opcodes; a claim that must not rest on that excludes them by this. -/
def doubtfulOpcode (w : Word) : Bool :=
  ((opFam w == 0x5 || opFam w == 0x9) && opN w != 0x0)
    || (opFam w == 0x0 && (opKK w == 0xE0 || opKK w == 0xEE) && opX w != 0x0)
    || (opFam w == 0xE && (opN w == 0xE || opN w == 0x1) && opKK w != 0x9E && opKK w != 0xA1)

/-- What the decoder reads from the opcode-table word `w`. The table numbers an opcode's bits from the least
significant bit of its one 16-bit word, so `w` is the opcode itself; it is laid out as the hardware stores it and
given to the decoder. -/
def decodeTableWord (nbits w : Nat) : Option Instr :=
  let opcode := BitVec.ofNat 16 (w % 2 ^ nbits)
  match decodeBytes [hiByte opcode, loByte opcode] with
  | .ok (i, _) => some i
  | .error _ => none

end Sys2Proof
end

