-- ==== Sys2Proof/Machine/Ops.lean ====
section
/-! DEFINITION. The named operations over registers, memory, the call stack, the display, the keys, the random
source and the events (10_state.md, 20_memory.md, 60_exceptions.md), and how a fatal fault ends an operation. -/

namespace Sys2Proof.Machine

/-- The outcome of a Step or of an instruction (00_scope.md R8). -/
abbrev Result := Host.Outcome State Fault Refusal

/-- A fatal fault ends the operation: it is the outcome, no state follows, and there is no handler, saved register
or return (00_scope.md R8, 60_exceptions.md R251). This is the machine's one way of taking an exception. -/
def finish : Except Fault State → Result
  | .ok s => .next s
  | .error f => .fault f

/-- The numeric code of a cause (60_exceptions.md R240; spec decision D19). -/
def Fault.code : Fault → Nat
  | .stackUnderflow _ => 1
  | .arithmeticUnderflow _ => 2
  | .memoryOutOfBounds _ _ => 3
  | .indexOverflow _ => 4
  | .keyOutOfRange _ _ => 5
  | .stackOverflow _ => 6
  | .programTooLarge _ => 7

/-! ### General registers -/

/-- `V[r]` (10_state.md R21). -/
def State.reg (s : State) (r : RegIx) : Byte := s.v[r.toNat]'r.isLt

/-- `V[r] <- b` (10_state.md R21). -/
def State.setReg (s : State) (r : RegIx) (b : Byte) : State := { s with v := s.v.set r.toNat b r.isLt }

/-- FLAG_REG: `V[15]`, the carry, borrow and collision flag (10_state.md R22). -/
def flagReg : RegIx := 15

/-- `V[15] <- b` (10_state.md R22). -/
def State.setFlag (s : State) (b : Byte) : State := s.setReg flagReg b

/-- `V[k], V[k+1], ..` take the bytes in turn, lowest register first (43_index_memory.md R196). -/
def State.setRegs (s : State) (k : Nat) : List Byte → State
  | [] => s
  | b :: bs => (s.setReg (BitVec.ofNat 4 k) b).setRegs (k + 1) bs

/-! ### The other registers of the core -/

/-- `I <- w` (10_state.md R23). -/
def State.setI (s : State) (w : Word) : State := { s with i := w }

/-- `pc <- target` (10_state.md R24). -/
def State.setPc (s : State) (target : Word) : State := { s with pc := target }

/-- `DT <- b` (10_state.md R28). -/
def State.setDT (s : State) (b : Byte) : State := { s with dt := b }

/-- `ST <- b` (10_state.md R28). -/
def State.setST (s : State) (b : Byte) : State := { s with st := b }

/-- `pc <- pc + 2`: the advance of Step before it executes (40_cycle.md R122) and "skip next instruction"
(41_flow.md R140). The register is 16 bits wide; no run reaches a pc above 4350 (10_state.md R26, log entry 26). -/
def State.advancePc (s : State) : State := s.setPc (s.pc + 2)

/-- The skip of a conditional skip instruction (41_flow.md R140). -/
def State.skipIf (s : State) (condition : Bool) : State := if condition then s.advancePc else s

/-- `a`, the address of the instruction under execution: every instruction rule is written for the moment after pc
was advanced by 2 (40_cycle.md R122, 60_exceptions.md R240). -/
def State.instrAddr (s : State) : Word := s.pc - 2

/-- Running -> AwaitingKey with the pending register `r` (10_state.md R29, 45_keypad_timers.md R224). -/
def State.awaitKey (s : State) (r : RegIx) : State := { s with paused := true, pending := r }

/-! ### The call stack -/

/-- `push(w)`: the new top (10_state.md R27); it fails only on a full stack of finite capacity (60_exceptions.md
R246). -/
def State.push (s : State) (w : Word) : Except Fault State :=
  match s.cfg.stackCapacity with
  | none => .ok { s with stack := s.stack ++ [w] }
  | some c =>
    if c ≤ s.stack.length then .error (.stackOverflow s.instrAddr) else .ok { s with stack := s.stack ++ [w] }

/-- `pop()`: the top, removed; popping the empty stack is fatal (10_state.md R27, 60_exceptions.md R241). -/
def State.pop (s : State) : Except Fault (State × Word) :=
  match s.stack.getLast? with
  | none => .error (.stackUnderflow s.instrAddr)
  | some w => .ok ({ s with stack := s.stack.dropLast }, w)

/-! ### Memory -/

/-- The byte of cell `addr` in a list of cells: the listed one, else the cell's reset content (20_memory.md R67). -/
def Memory.read (font : Font) : List Host.Cell → Nat → Byte
  | [], addr => unlisted font addr
  | c :: cells, addr => if c.1 = addr then c.2 else Memory.read font cells addr

/-- The entry that makes cell `addr` read as `b`: none where it reads so unlisted. -/
def Memory.entry (font : Font) (addr : Nat) (b : Byte) : List Host.Cell :=
  if b = unlisted font addr then [] else [(addr, b)]

/-- The cells after cell `addr` took the byte `b`: the cells below it, its own entry, the cells above it. -/
def Memory.write (font : Font) (cells : List Host.Cell) (addr : Nat) (b : Byte) : List Host.Cell :=
  cells.filter (fun c => c.1 < addr) ++ Memory.entry font addr b ++ cells.filter (fun c => addr < c.1)

/-- The canonical form: addresses strictly rising, all in the address space, and no entry equal to what the cell
reads as unlisted. -/
abbrev Memory.wf (font : Font) (cells : List Host.Cell) : Prop :=
  cells.Pairwise (fun c d => c.1 < d.1) ∧ ∀ c ∈ cells, c.1 < memSize ∧ c.2 ≠ unlisted font c.1

/-- The bounds check of an access of `n` cells from `addr` by the instruction at `a` (20_memory.md R61): the first
offending address is recorded and nothing wraps (spec decision D14, log entry 19). -/
def boundsCheck (a : Word) (addr n : Nat) : Except Fault Unit :=
  if memSize ≤ addr + n - 1 then .error (.memoryOutOfBounds a (max addr memSize)) else .ok ()

/-- The byte that cell `addr` holds. -/
def State.cell (s : State) (addr : Nat) : Byte := Memory.read s.cfg.font s.mem addr

/-- `MemRead(addr, 1)` by the instruction at `a` (20_memory.md R61). -/
def State.memRead (s : State) (a : Word) (addr : Nat) : Except Fault Byte :=
  match boundsCheck a addr 1 with
  | .error f => .error f
  | .ok () => .ok (s.cell addr)

/-- `MemWrite(addr, 1, b)` by the instruction at `a` (20_memory.md R61). -/
def State.memWrite (s : State) (a : Word) (addr : Nat) (b : Byte) : Except Fault State :=
  match boundsCheck a addr 1 with
  | .error f => .error f
  | .ok () => .ok { s with mem := Memory.write s.cfg.font s.mem addr b }

/-- `n` reads of one cell each, in ascending order from `addr` (20_memory.md R65). -/
def State.readCells (s : State) (a : Word) (addr : Nat) : Nat → Except Fault (List Byte)
  | 0 => .ok []
  | n + 1 =>
    match s.memRead a addr with
    | .error f => .error f
    | .ok b =>
      match s.readCells a (addr + 1) n with
      | .error f => .error f
      | .ok bs => .ok (b :: bs)

/-- One write of one cell for each byte, in ascending order from `addr` (20_memory.md R65). -/
def State.storeCells (s : State) (a : Word) (addr : Nat) : List Byte → Except Fault State
  | [] => .ok s
  | b :: bs =>
    match s.memWrite a addr b with
    | .error f => .error f
    | .ok s' => s'.storeCells a (addr + 1) bs

/-- The fetch, `MemRead(pc, 2)`: the opcode is big-endian (20_memory.md R63, 40_cycle.md R122). -/
def State.fetchOpcode (s : State) : Except Fault Word :=
  match boundsCheck s.pc s.pc.toNat 2 with
  | .error f => .error f
  | .ok () => .ok (opcodeOf (s.cell s.pc.toNat) (s.cell (s.pc.toNat + 1)))

/-! ### Events and devices -/

/-- `emit e` (00_scope.md R9). -/
def State.emit (s : State) (e : Event) : State := { s with events := s.events ++ [e] }

/-- The whole effect of an unknown opcode beyond the advance of pc (40_cycle.md R124). -/
def State.unknownOpcode (s : State) (opcode : Word) : State := s.emit (.unknownOpcode opcode s.instrAddr)

/-- Whether pixel (px, py) is on (60_exceptions.md R252). -/
def State.pixel (s : State) (px py : Nat) : Bool := (s.display.getD py []).getD px false

/-- `Display.clear()`: every pixel off (60_exceptions.md R253), recorded as an event (44_display.md R210). -/
def State.clearDisplay (s : State) : State :=
  { s with display := clearBitmap s.cfg.displayW s.cfg.displayH }.emit .displayClear

/-- `Display.toggle(px, py)`: the pixel inverted, recorded as an event. -/
def State.togglePixel (s : State) (px py : Nat) : State :=
  { s with display := s.display.modify py fun row => row.modify px (!·) }.emit (.displayToggle px py)

/-- The answer of `Display.toggle(px, py)` asked in the state `s`: true exactly when the pixel was on before the
request, that is, when it is off after it (60_exceptions.md R254). -/
def State.toggleAnswer (s : State) (px py : Nat) : Bool := s.pixel px py

/-- The toggle requests of `Dxyn` in order, with whether any of them answered true (44_display.md R212). -/
def State.toggleAll (s : State) : List (Nat × Nat) → State × Bool
  | [] => (s, false)
  | p :: ps =>
    let rest := (s.togglePixel p.1 p.2).toggleAll ps
    (rest.1, s.toggleAnswer p.1 p.2 || rest.2)

/-- `Keys.isDown(k)` (60_exceptions.md R256). -/
def State.isKeyDown (s : State) (k : KeyCode) : Bool := s.keys[k.toNat]'k.isLt

/-- The input device takes key `k` to the given level (60_exceptions.md R256). -/
def State.setKey (s : State) (k : KeyCode) (down : Bool) : State := { s with keys := s.keys.set k.toNat down k.isLt }

/-- The byte the next `Rand()` returns: a free value (60_exceptions.md R259, log entry 6). -/
def State.nextDraw (s : State) : Byte := Config.randomByte s.draws

/-- One draw is consumed (60_exceptions.md R259). -/
def State.consumeDraw (s : State) : State := { s with draws := s.draws + 1 }

end Sys2Proof.Machine
end

