-- ==== Sys2Proof/Machine/Operands.lean ====
section
/-! DEFINITION. The operand forms: immediates (30_encoding.md R93), the one addressing mode `I + k`
(43_index_memory.md R190), register ranges, decimal digits, glyph addresses, jump targets, sprite pixels and key
codes. -/

namespace Sys2Proof.Machine

/-- `zext_16(nnn)` (30_encoding.md R93). -/
def addrOperand (nnn : Addr12) : Word := nnn.setWidth 16

/-- The target of `Bnnn` (41_flow.md R148); which form is the parameter JP_V0_FORM (log entry 11). -/
def jpV0Target (form : JpV0Form) (nnn : Addr12) (v0 : Byte) : Word :=
  match form with
  | .sum => nnn.setWidth 16 + v0.setWidth 16
  | .referenceAnd => nnn.setWidth 16 &&& (0xFFF + v0.setWidth 16)

/-- The effective address `I + k`, a natural number that is never reduced (43_index_memory.md R190). -/
def State.effAddr (s : State) (k : Nat) : Nat := s.i.toNat + k

/-- `V[0], .., V[x]` (43_index_memory.md R195). -/
def State.regsUpTo (s : State) (x : RegIx) : List Byte :=
  (List.range (x.toNat + 1)).map fun k => s.reg (BitVec.ofNat 4 k)

/-- The three decimal digits, hundreds first (43_index_memory.md R194). -/
def decimalDigits (b : Byte) : List Byte :=
  [BitVec.ofNat 8 (b.toNat / 100), BitVec.ofNat 8 (b.toNat / 10 % 10), BitVec.ofNat 8 (b.toNat % 10)]

/-- The address of the glyph of a digit: the whole byte times GLYPH_BYTES, not masked (43_index_memory.md R193). -/
def glyphAddr (b : Byte) : Word := BitVec.ofNat 16 (b.toNat * 5)

/-- `I + V[x]` as a natural number (43_index_memory.md R192). -/
def State.indexSum (s : State) (x : RegIx) : Nat := s.i.toNat + (s.reg x).toNat

/-- The key code in `V[x]`; a value above 15 is fatal (45_keypad_timers.md R221; spec decision D16, log entry 21). -/
def State.keyOperand (s : State) (x : RegIx) : Except Fault KeyCode :=
  if 15 < (s.reg x).toNat then .error (.keyOutOfRange s.instrAddr (s.reg x))
  else .ok (BitVec.ofNat 4 (s.reg x).toNat)

/-- The columns of a sprite byte that are set, left to right; bit 7 is the leftmost (44_display.md R212; spec decision
D11, log entry 17). -/
def setColumns (b : Byte) : List Nat := (List.range 8).filter fun c => b.getLsbD (7 - c)

/-- The pixels that row `r` of a sprite toggles, each coordinate wrapped by a modulo of its own (44_display.md R212;
spec decision D4, log entry 17). -/
def spriteRow (cfg : Config) (vx vy r : Nat) (b : Byte) : List (Nat × Nat) :=
  (setColumns b).map fun c => ((vx + c) % cfg.displayW, (vy + r) % cfg.displayH)

/-- The pixels that the rows `r`, `r + 1`, .. of a sprite toggle, in the order of the requests (44_display.md R212). -/
def spritePixels (cfg : Config) (vx vy r : Nat) : List Byte → List (Nat × Nat)
  | [] => []
  | b :: rows => spriteRow cfg vx vy r b ++ spritePixels cfg vx vy (r + 1) rows

end Sys2Proof.Machine
end

