-- ==== Sys2Proof/Machine/Alu.lean ====
section
/-! DEFINITION. The register and ALU instructions (42_alu.md). The flag-writing ones follow the written order of R161:
each assignment reads the registers as the previous one left them (spec decision D10, log entry 16). -/

namespace Sys2Proof.Machine

/-- `6xkk` LD Vx, kk (R162). -/
def execLdImm (x : RegIx) (kk : Byte) (s : State) : Result := .next (s.setReg x kk)

/-- `7xkk` ADD Vx, kk: wrapping, no flag (R163). -/
def execAddImm (x : RegIx) (kk : Byte) (s : State) : Result := .next (s.setReg x (addResult (s.reg x) kk))

/-- `8xy0` LD Vx, Vy (R164). -/
def execLdReg (x y : RegIx) (s : State) : Result := .next (s.setReg x (s.reg y))

/-- `8xy1` OR Vx, Vy: no flag (R165). -/
def execOrReg (x y : RegIx) (s : State) : Result := .next (s.setReg x (s.reg x ||| s.reg y))

/-- `8xy2` AND Vx, Vy: no flag (R166). -/
def execAndReg (x y : RegIx) (s : State) : Result := .next (s.setReg x (s.reg x &&& s.reg y))

/-- `8xy3` XOR Vx, Vy: no flag (R167). -/
def execXorReg (x y : RegIx) (s : State) : Result := .next (s.setReg x (s.reg x ^^^ s.reg y))

/-- `8xy4` ADD Vx, Vy: the result first, the flag second (R168, R161). -/
def execAddReg (x y : RegIx) (s : State) : Result :=
  .next ((s.setReg x (addResult (s.reg x) (s.reg y))).setFlag (carryFlag (s.reg x) (s.reg y)))

/-- `8xy5` SUB Vx, Vy: the flag first, then the result from the registers as the flag write left them (R169, R161). -/
def execSubReg (x y : RegIx) (s : State) : Result :=
  let s' := s.setFlag (greaterFlag (s.reg x) (s.reg y))
  .next (s'.setReg x (subResult (s'.reg x) (s'.reg y)))

/-- `8xy6` SHR Vx: the flag first, then the shift of `V[x]` as the flag write left it; `V[y]` is neither read nor
written (R170, R161; 30_encoding.md R96). -/
def execShr (x _y : RegIx) (s : State) : Result :=
  let s' := s.setFlag (shrFlag (s.reg x))
  .next (s'.setReg x (shrResult (s'.reg x)))

/-- `8xy7` SUBN Vx, Vy: the flag first, then the subtraction of the registers as the flag write left them, fatal when
it underflows (R171, R161; spec decision D3, log entry 18). -/
def execSubn (x y : RegIx) (s : State) : Result :=
  let s' := s.setFlag (greaterFlag (s.reg y) (s.reg x))
  if (s'.reg y).toNat < (s'.reg x).toNat then .fault (.arithmeticUnderflow s.instrAddr)
  else .next (s'.setReg x (subResult (s'.reg y) (s'.reg x)))

/-- `8xyE` SHL Vx: the flag first, then the shift of `V[x]` as the flag write left it; `V[y]` is neither read nor
written (R172, R161; 30_encoding.md R96). -/
def execShl (x _y : RegIx) (s : State) : Result :=
  let s' := s.setFlag (shlFlag (s.reg x))
  .next (s'.setReg x (shlResult (s'.reg x)))

/-- `Cxkk` RND Vx, kk: one draw, any value, masked (R173; 60_exceptions.md R259, log entry 6). -/
def execRnd (x : RegIx) (kk : Byte) (s : State) : Result := .next (s.consumeDraw.setReg x (s.nextDraw &&& kk))

end Sys2Proof.Machine
end

