-- ==== Sys2Proof/Machine/Display.lean ====
section
/-! DEFINITION. The display instructions (44_display.md). -/

namespace Sys2Proof.Machine

/-- `00E0` CLS (R211). -/
def execCls (s : State) : Result := .next s.clearDisplay

/-- `Dxyn` DRW Vx, Vy, n: the operands are read once before anything is written, the `n` sprite bytes are read, the
set bits are toggled in order, and `V[15]` is written once at the end (R212; spec decision D11, log entry 17).
Reading every row before the first toggle is the same: a fault has no successor state and no toggle writes memory
(log entry 29). -/
def execDrw (x y : RegIx) (n : Nibble) (s : State) : Result :=
  match s.readCells s.instrAddr (s.effAddr 0) n.toNat with
  | .error f => .fault f
  | .ok rows =>
    let drawn := s.toggleAll (spritePixels s.cfg (s.reg x).toNat (s.reg y).toNat 0 rows)
    .next (drawn.1.setFlag (flagOf drawn.2))

end Sys2Proof.Machine
end

