-- ==== Sys2Proof/Machine/Flow.lean ====
section
/-! DEFINITION. The control-transfer instructions (41_flow.md), each for the moment after pc was advanced (R140). -/

namespace Sys2Proof.Machine

/-- `00EE` RET (R141). -/
def execRet (s : State) : Result :=
  match s.pop with
  | .error f => .fault f
  | .ok (s', w) => .next (s'.setPc w)

/-- `1nnn` JP nnn (R142). -/
def execJp (nnn : Addr12) (s : State) : Result := .next (s.setPc (addrOperand nnn))

/-- `2nnn` CALL nnn: the pushed value is the advanced pc (R143, 90_conflicts.md C4). -/
def execCall (nnn : Addr12) (s : State) : Result :=
  match s.push s.pc with
  | .error f => .fault f
  | .ok s' => .next (s'.setPc (addrOperand nnn))

/-- `3xkk` SE Vx, kk (R144). -/
def execSeImm (x : RegIx) (kk : Byte) (s : State) : Result := .next (s.skipIf (s.reg x == kk))

/-- `4xkk` SNE Vx, kk (R145). -/
def execSneImm (x : RegIx) (kk : Byte) (s : State) : Result := .next (s.skipIf (s.reg x != kk))

/-- `5xy0` SNE5 Vx, Vy (R146; spec decision D1, log entry 10). -/
def execSne5 (x y : RegIx) (s : State) : Result :=
  .next (s.skipIf (skip5 s.cfg.skip5Sense (s.reg x) (s.reg y)))

/-- `9xy0` SNE Vx, Vy (R147). -/
def execSneReg (x y : RegIx) (s : State) : Result := .next (s.skipIf (s.reg x != s.reg y))

/-- `Bnnn` JP V0, nnn: the register is always `V[0]` (R148; spec decision D2, log entry 11). -/
def execJpV0 (nnn : Addr12) (s : State) : Result := .next (s.setPc (jpV0Target s.cfg.jpV0Form nnn (s.reg 0)))

end Sys2Proof.Machine
end

