-- ==== Sys2Proof/Machine/Index.lean ====
section
/-! DEFINITION. The index-register and memory instructions (43_index_memory.md). None of them changes `I` as a side
effect of a memory access (R190). -/

namespace Sys2Proof.Machine

/-- `Annn` LD I, nnn (R191). -/
def execLdI (nnn : Addr12) (s : State) : Result := .next (s.setI (addrOperand nnn))

/-- `Fx1E` ADD I, Vx: no flag; fatal above 0xFFFF (R192; spec decision D15, log entry 20). -/
def execAddI (x : RegIx) (s : State) : Result :=
  if 0xFFFF < s.indexSum x then .fault (.indexOverflow s.instrAddr)
  else .next (s.setI (BitVec.ofNat 16 (s.indexSum x)))

/-- `Fx29` LD F, Vx (R193). -/
def execLdF (x : RegIx) (s : State) : Result := .next (s.setI (glyphAddr (s.reg x)))

/-- `Fx33` LD B, Vx (R194). -/
def execLdB (x : RegIx) (s : State) : Result :=
  finish (s.storeCells s.instrAddr (s.effAddr 0) (decimalDigits (s.reg x)))

/-- `Fx55` LD [I], Vx (R195). -/
def execLdMemVx (x : RegIx) (s : State) : Result :=
  finish (s.storeCells s.instrAddr (s.effAddr 0) (s.regsUpTo x))

/-- `Fx65` LD Vx, [I] (R196). -/
def execLdVxMem (x : RegIx) (s : State) : Result :=
  match s.readCells s.instrAddr (s.effAddr 0) (x.toNat + 1) with
  | .error f => .fault f
  | .ok bytes => .next (s.setRegs 0 bytes)

end Sys2Proof.Machine
end

