-- ==== Sys2Proof/Machine/Keypad.lean ====
section
/-! DEFINITION. The keypad and timer instructions (45_keypad_timers.md). -/

namespace Sys2Proof.Machine

/-- `Ex9E` SKP Vx: the key's level now (R221). -/
def execSkp (x : RegIx) (s : State) : Result :=
  match s.keyOperand x with
  | .error f => .fault f
  | .ok k => .next (s.skipIf (s.isKeyDown k))

/-- `ExA1` SKNP Vx (R222). -/
def execSknp (x : RegIx) (s : State) : Result :=
  match s.keyOperand x with
  | .error f => .fault f
  | .ok k => .next (s.skipIf (!s.isKeyDown k))

/-- `Fx07` LD Vx, DT (R223). -/
def execLdVxDT (x : RegIx) (s : State) : Result := .next (s.setReg x s.dt)

/-- `Fx0A` LD Vx, K: enters AwaitingKey; KeyAccept completes it (R224). -/
def execLdVxK (x : RegIx) (s : State) : Result := .next (s.awaitKey x)

/-- `Fx15` LD DT, Vx (R225). -/
def execLdDTVx (x : RegIx) (s : State) : Result := .next (s.setDT (s.reg x))

/-- `Fx18` LD ST, Vx (R226). -/
def execLdSTVx (x : RegIx) (s : State) : Result := .next (s.setST (s.reg x))

end Sys2Proof.Machine
end

