-- ==== Sys2Proof/Machine/Step.lean ====
section
/-! DEFINITION. Step, one fetch-decode-execute (40_cycle.md R122 to R125), and the placing of one instruction where
Step fetches next. -/

namespace Sys2Proof.Machine

/-- `Step()`: nothing at all while AwaitingKey (R125); else fetch, advance pc, decode and execute (R122, R123), an
unknown opcode being reported and passed over (R124). The checks come in the order of 60_exceptions.md R250. -/
def step (s : State) : Host.Outcome State Fault Refusal :=
  if s.paused then .next s
  else
    match s.fetchOpcode with
    | .error f => .fault f
    | .ok opcode =>
      match decode opcode with
      | .ok i => exec i s.advancePc
      | .error _ => .next (s.advancePc.unknownOpcode opcode)

/-- `s` with the opcode `w` stored where Step fetches next. The fetch needs a Running machine and a pc whose two cells
exist: a paused state is made Running and a pc of 4095 or more is moved to the entry point (log entry 28). -/
def State.withFetchWord (s : State) (nbits w : Nat) : State :=
  let opcode := BitVec.ofNat 16 (w % 2 ^ nbits)
  let pc := if s.pc.toNat + 1 < memSize then s.pc else pcReset
  { s with
    paused := false
    pc := pc
    mem :=
      Memory.write s.cfg.font (Memory.write s.cfg.font s.mem pc.toNat (hiByte opcode)) (pc.toNat + 1) (loByte opcode) }

end Sys2Proof.Machine
end

