-- ==== Sys2Proof/Machine/Cycle.lean ====
section
/-! DEFINITION. The operations through which the host drives the core (40_cycle.md R120): Reset, LoadProgram, Tick,
KeyAccept, KeyDown and KeyUp, beside Step, and the legal runs of R131. -/

namespace Sys2Proof.Machine

/-- `Reset()`: every component at its reset value, whatever the state was; the parameters are constants of the
instantiation and stay (70_reset_and_hazards.md R280, 10_state.md R32, log entry 33). -/
def reset (s : State) : State := State.resetWith s.cfg

/-- The core is as Reset produced it, before the first Step (R121). The keys may have any levels: they belong to the
input device (spec decision D25), and the host may raise KeyDown and KeyUp at any point between operations, before the
program is loaded too (60_exceptions.md R262). -/
abbrev State.atReset (s : State) : Prop := s = { State.resetWith s.cfg with keys := s.keys }

/-- `LoadProgram(bytes)` (R121): the bytes go to 0x200, 0x201, ..; a program longer than 3584 bytes is fatal and writes
nothing (spec decision D17). It is defined on the state Reset produced only; any other state has no transition
(treatment U19, log entry 23). -/
def loadProgram (bytes : List Byte) (s : State) : Result :=
  if s.atReset then
    if programMax < bytes.length then .fault (.programTooLarge bytes.length)
    else finish (s.storeCells s.instrAddr programBase bytes)
  else .refused .loadNotAtReset

/-- One operation after another: the second begins where the first ended, and a fatal fault ends both (R131). -/
def andThen (first : Result) (second : State → Result) : Result :=
  match first with
  | .next s => second s
  | .fault f => .fault f
  | .refused r => .refused r

/-- `n` Steps, ended at once by a fatal fault (R126). -/
def steps : Nat → State → Result
  | 0, s => .next s
  | n + 1, s => andThen (step s) (steps n)

/-- One timer, "decremented by at most 1 per tick, floored at 0" (10_state.md R28). -/
def decayed (timer : Byte) : Byte := if 0 < timer.toNat then timer - 1 else timer

/-- The end of a Tick: both timers decay, unless the machine is AwaitingKey (R126). -/
def State.decayTimers (s : State) : State :=
  if s.paused then s else (s.setDT (decayed s.dt)).setST (decayed s.st)

/-- `Tick()`: STEPS_PER_TICK Steps, then the timers decay once (R126). -/
def tick (s : State) : Result := andThen (steps s.cfg.stepsPerTick s) fun s' => .next s'.decayTimers

/-- `KeyAccept(k)`: the key code goes to the pending register and the machine is Running again; without effect while
Running (R128; spec decision D18, log entry 24). -/
def keyAccept (k : KeyCode) (s : State) : State :=
  if s.paused then { s.setReg s.pending (k.setWidth 8) with paused := false } else s

/-- `KeyDown(k)`: the key goes down, and in AwaitingKey the event is the key-accept event (R129; spec decision D18). -/
def keyDown (k : KeyCode) (s : State) : State := keyAccept k (s.setKey k true)

/-- `KeyUp(k)`: the key goes up; no effect on the core (R130). -/
def keyUp (k : KeyCode) (s : State) : State := s.setKey k false

/-- The sound sink's tone is on (60_exceptions.md R258): what the host observes of `ST`. -/
def State.toneOn (s : State) : Bool := 0 < s.st.toNat

/-- The operations a host may invoke once the machine is loaded, in any order (R131). -/
inductive HostOp where
  /-- Step (R122). -/
  | step
  /-- Tick (R126). -/
  | tick
  /-- KeyAccept (R128). -/
  | keyAccept (k : KeyCode)
  /-- KeyDown (R129). -/
  | keyDown (k : KeyCode)
  /-- KeyUp (R130). -/
  | keyUp (k : KeyCode)
  deriving DecidableEq, Repr

/-- One operation of the host, atomic (R120). -/
def perform (op : HostOp) (s : State) : Result :=
  match op with
  | .step => step s
  | .tick => tick s
  | .keyAccept k => .next (keyAccept k s)
  | .keyDown k => .next (keyDown k s)
  | .keyUp k => .next (keyUp k s)

/-- The operations one after another, each starting only after the one before it has ended; a fatal fault ends the run
(R131). -/
def performAll : List HostOp → State → Result
  | [], s => .next s
  | op :: ops, s => andThen (perform op s) (performAll ops)

/-- A run (R131): Reset, then at most one LoadProgram, then the host's operations. `early` holds what the host does
before it loads: its key events (60_exceptions.md R262); after a Step or a Tick there LoadProgram is refused. -/
def run (c : Config) (early : List HostOp) (program : Option (List Byte)) (ops : List HostOp) : Result :=
  andThen (performAll early (State.resetWith c)) fun s =>
    match program with
    | none => performAll ops s
    | some bytes => andThen (loadProgram bytes s) (performAll ops)

end Sys2Proof.Machine
end

