-- ==== Sys2Proof/WellFormed.lean ====
section
/-! DEFINITION. What is well formed: the operand fields of an instruction (30_encoding.md R91), an
instantiation's parameters (00_scope.md R5, 44_display.md R212) and a program (40_cycle.md R121). -/

namespace Sys2Proof

/-- A field of `width` bits holds the values 0 .. 2^width - 1 (00_scope.md R6). -/
def fieldFits (width value : Nat) : Bool := decide (value < 2 ^ width)

/-- The operand fields of an instruction as pairs of width and value (30_encoding.md R91). -/
def Instr.operands : Instr → List (Nat × Nat)
  | .cls => []
  | .ret => []
  | .jp nnn => [(12, nnn.toNat)]
  | .call nnn => [(12, nnn.toNat)]
  | .seImm x kk => [(4, x.toNat), (8, kk.toNat)]
  | .sneImm x kk => [(4, x.toNat), (8, kk.toNat)]
  | .sne5 x y => [(4, x.toNat), (4, y.toNat)]
  | .ldImm x kk => [(4, x.toNat), (8, kk.toNat)]
  | .addImm x kk => [(4, x.toNat), (8, kk.toNat)]
  | .ldReg x y => [(4, x.toNat), (4, y.toNat)]
  | .orReg x y => [(4, x.toNat), (4, y.toNat)]
  | .andReg x y => [(4, x.toNat), (4, y.toNat)]
  | .xorReg x y => [(4, x.toNat), (4, y.toNat)]
  | .addReg x y => [(4, x.toNat), (4, y.toNat)]
  | .subReg x y => [(4, x.toNat), (4, y.toNat)]
  | .shr x y => [(4, x.toNat), (4, y.toNat)]
  | .subn x y => [(4, x.toNat), (4, y.toNat)]
  | .shl x y => [(4, x.toNat), (4, y.toNat)]
  | .sneReg x y => [(4, x.toNat), (4, y.toNat)]
  | .ldI nnn => [(12, nnn.toNat)]
  | .jpV0 nnn => [(12, nnn.toNat)]
  | .rnd x kk => [(4, x.toNat), (8, kk.toNat)]
  | .drw x y n => [(4, x.toNat), (4, y.toNat), (4, n.toNat)]
  | .skp x => [(4, x.toNat)]
  | .sknp x => [(4, x.toNat)]
  | .ldVxDT x => [(4, x.toNat)]
  | .ldVxK x => [(4, x.toNat)]
  | .ldDTVx x => [(4, x.toNat)]
  | .ldSTVx x => [(4, x.toNat)]
  | .addI x => [(4, x.toNat)]
  | .ldF x => [(4, x.toNat)]
  | .ldB x => [(4, x.toNat)]
  | .ldMemVx x => [(4, x.toNat)]
  | .ldVxMem x => [(4, x.toNat)]

/-- Every operand fits its field. The types of the fields are the encoding's own, so no ill-formed instruction can
be written down: `Sys2Proof.Laws.Instr.wellFormed_all` proves it of every `Instr`. -/
def Instr.wellFormed (i : Instr) : Bool := i.operands.all fun f => fieldFits f.1 f.2

/-- An instantiation the rules are written for: at least one step a Tick (decision D7: "any integer >= 1") and a
display wider than a sprite row and higher than a sprite, which R212's remarks need ("8 < DISPLAY_W",
"15 < DISPLAY_H"). -/
def Config.wellFormed (c : Config) : Bool :=
  decide (1 ≤ c.stepsPerTick) && decide (8 < c.displayW) && decide (15 < c.displayH)

/-- A program that fits between PROGRAM_BASE and the end of memory: at most 4096 - 0x200 = 3584 bytes
(20_memory.md R62, 40_cycle.md R121). -/
def programFits (bytes : List Byte) : Bool := decide (bytes.length ≤ 3584)

end Sys2Proof
end

