-- ==== Sys2Proof/Safety.lean ====
section
/-! DEFINITION. What a state of a run satisfies, and what an instruction may write, in the terms the statements use. -/

namespace Sys2Proof.Machine

/-- The display's bitmap has DISPLAY_H rows of DISPLAY_W pixels (60_exceptions.md R252). -/
abbrev State.displayFits (s : State) : Prop :=
  s.display.length = s.cfg.displayH ∧ ∀ row ∈ s.display, row.length = s.cfg.displayW

/-- The call stack is no deeper than STACK_CAPACITY allows (10_state.md R27). -/
abbrev State.stackFits (s : State) : Prop := ∀ c ∈ s.cfg.stackCapacity, s.stack.length ≤ c

/-- The invariant of every run: the parameters are those the rules are written for, memory is in its canonical form,
the bitmap has the display's size, the stack fits its capacity, and no pc above 4350 and no return address above 4096
is ever held (10_state.md R26), so that the 16-bit pc never wraps. -/
structure State.Inv (s : State) : Prop where
  /-- 00_scope.md R5. -/
  config : s.cfg.wellFormed = true
  /-- 20_memory.md R60. -/
  memory : Memory.wf s.cfg.font s.mem
  /-- 60_exceptions.md R252. -/
  display : s.displayFits
  /-- 10_state.md R27. -/
  stack : s.stackFits
  /-- 10_state.md R26. -/
  pc : s.pc.toNat ≤ 4350
  /-- 10_state.md R26. -/
  returns : ∀ w ∈ s.stack, w.toNat ≤ 4096

/-- An instruction is about to be fetched: Running, and both cells of the opcode exist (40_cycle.md R122, R125). -/
abbrev State.canFetch (s : State) : Prop := s.paused = false ∧ s.pc.toNat + 1 < memSize

/-- The opcode at pc (20_memory.md R63). -/
def State.opcodeAtPc (s : State) : Word := opcodeOf (s.cell s.pc.toNat) (s.cell (s.pc.toNat + 1))

/-- The next Step executes an opcode whose decoding the source leaves in doubt (30_encoding.md R98); a run in which
this holds of no state rests on no doubtful decoding (log entry 15). -/
def State.atDoubtfulOpcode (s : State) : Bool := !s.paused && doubtfulOpcode s.opcodeAtPc

/-- The instruction is one of the five that write `V[15]` beside their result, with `V[15]` as an operand: the forms
whose result rests on the written order (42_alu.md R161, treatment U4, log entry 16). -/
def aliasedFlagForm : Instr → Bool
  | .addReg x y => x == flagReg || y == flagReg
  | .subReg x y => x == flagReg || y == flagReg
  | .shr x _ => x == flagReg
  | .subn x y => x == flagReg || y == flagReg
  | .shl x _ => x == flagReg
  | _ => false

/-- The general registers an instruction may write (10_state.md R21, R22). -/
def writesReg : Instr → RegIx → Bool
  | .ldImm x _, r => r == x
  | .addImm x _, r => r == x
  | .ldReg x _, r => r == x
  | .orReg x _, r => r == x
  | .andReg x _, r => r == x
  | .xorReg x _, r => r == x
  | .addReg x _, r => r == x || r == flagReg
  | .subReg x _, r => r == x || r == flagReg
  | .shr x _, r => r == x || r == flagReg
  | .subn x _, r => r == x || r == flagReg
  | .shl x _, r => r == x || r == flagReg
  | .rnd x _, r => r == x
  | .drw _ _ _, r => r == flagReg
  | .ldVxDT x, r => r == x
  | .ldVxMem x, r => decide (r.toNat ≤ x.toNat)
  | _, _ => false

/-- The number of cells from `I` that an instruction stores to (20_memory.md R65). -/
def storedCells : Instr → Nat
  | .ldB _ => 3
  | .ldMemVx x => x.toNat + 1
  | _ => 0

/-- The instruction writes pc beyond the advance of Step (10_state.md R25). -/
def writesPc : Instr → Bool
  | .ret => true
  | .jp _ => true
  | .call _ => true
  | .seImm _ _ => true
  | .sneImm _ _ => true
  | .sne5 _ _ => true
  | .sneReg _ _ => true
  | .jpV0 _ => true
  | .skp _ => true
  | .sknp _ => true
  | _ => false

/-- The instruction writes the index register (10_state.md R23). -/
def writesI : Instr → Bool
  | .ldI _ => true
  | .addI _ => true
  | .ldF _ => true
  | _ => false

/-- The instruction writes the call stack (10_state.md R27). -/
def writesStack : Instr → Bool
  | .ret => true
  | .call _ => true
  | _ => false

/-- The instruction acts on the display (44_display.md R210). -/
def writesDisplay : Instr → Bool
  | .cls => true
  | .drw _ _ _ => true
  | _ => false

/-- The sprite of `Dxyn` covers pixel (px, py): some row `r < n` and column `c < 8` have a set bit, bit 7 leftmost, and
fall on the pixel modulo the display's size (44_display.md R212; spec decisions D4, D11, log entry 17). -/
def State.spriteCovers (s : State) (x y : RegIx) (n : Nibble) (px py : Nat) : Prop :=
  ∃ r c, r < n.toNat ∧ c < 8 ∧ (s.cell (s.effAddr r)).getLsbD (7 - c) = true ∧
    px = ((s.reg x).toNat + c) % s.cfg.displayW ∧ py = ((s.reg y).toNat + r) % s.cfg.displayH

/-- The requests of `Dxyn` in their order: rows ascending, columns left to right (44_display.md R212). -/
def State.spriteRequests (s : State) (x y : RegIx) (n : Nibble) : List (Nat × Nat) :=
  spritePixels s.cfg (s.reg x).toNat (s.reg y).toNat 0 ((List.range n.toNat).map fun r => s.cell (s.effAddr r))

/-- The address of the faulting instruction that a fault of a Step records (60_exceptions.md R240). -/
def Fault.instruction : Fault → Option Word
  | .stackUnderflow a => some a
  | .arithmeticUnderflow a => some a
  | .memoryOutOfBounds a _ => some a
  | .indexOverflow a => some a
  | .keyOutOfRange a _ => some a
  | .stackOverflow a => some a
  | .programTooLarge _ => none

/-- Whether the table of 60_exceptions.md R240 lists the cause for an instruction. -/
def mayRaise : Instr → Fault → Bool
  | .ret, .stackUnderflow _ => true
  | .subn _ _, .arithmeticUnderflow _ => true
  | .drw _ _ _, .memoryOutOfBounds _ _ => true
  | .ldB _, .memoryOutOfBounds _ _ => true
  | .ldMemVx _, .memoryOutOfBounds _ _ => true
  | .ldVxMem _, .memoryOutOfBounds _ _ => true
  | .addI _, .indexOverflow _ => true
  | .skp _, .keyOutOfRange _ _ => true
  | .sknp _, .keyOutOfRange _ _ => true
  | .call _, .stackOverflow _ => true
  | _, _ => false

end Sys2Proof.Machine
end

