-- ==== Sys2Proof/Certificates/Slice0/Obligations.lean ====
section
/-! DEFINITION. The statements for the provers, from the numbered rules of spec/. Each holds of every state, whatever
parameters it carries (log entry 1). `exec` is stated for the moment after pc was advanced by 2 (40_cycle.md R122), so
`s.pc` is the address of the following instruction and `s.pc - 2` that of the instruction itself. -/

open Sys2Proof Sys2Proof.Machine

/-! ### Encoding -/

/-- Decoding an encoded instruction gives it back, with every operand, and consumes exactly its two bytes
(30_encoding.md R90, R91, R92, R94). -/
def Obligations.EncodeThenDecodeGivesTheInstruction : Prop :=
  ∀ (i : Instr) (rest : List Byte), i.wellFormed = true →
    decode (encode i) = .ok i ∧ decodeBytes (encodeBytes i ++ rest) = .ok (i, rest)

/-- Encoding a decoded opcode gives the opcode back: no bit is dropped (30_encoding.md R91). That this holds of `8xy6` and
`8xyE`, whose 16 values of y select one instruction (R96), is the model's choice to keep y as an argument (log entry 30);
which opcodes decode is the spec's decision D12 (log entry 15). -/
def Obligations.DecodeThenEncodeGivesTheOpcode : Prop :=
  ∀ (w : Word) (i : Instr), decode w = .ok i → encode i = w

/-- An opcode decodes exactly when a row of the opcode map selects it, and then to an instruction of that row; any
other is rejected under its own name (30_encoding.md R94, R97). Which literal digits are matched is the spec's decision
D12 (log entry 15). -/
def Obligations.DecodesExactlyWhatTheMapSelects : Prop :=
  ∀ w : Word,
    ((∃ i, decode w = .ok i) ↔ ∃ row ∈ opcodeMap, row.selects w = true) ∧
    (∀ i, decode w = .ok i → i.row.selects w = true) ∧
    ((∀ row ∈ opcodeMap, row.selects w = false) → decode w = .error (.unknownOpcode w))

/-- No opcode is selected by two rows of the map: "the rows are pairwise disjoint" (30_encoding.md R94). -/
def Obligations.MapRowsAreDisjoint : Prop :=
  ∀ w : Word, ∀ row ∈ opcodeMap, ∀ row' ∈ opcodeMap, row.selects w = true → row'.selects w = true → row = row'

/-- Words written out bit by bit from the patterns of 30_encoding.md R94 decode to their instructions. -/
def Obligations.WrittenOutWordsDecode : Prop :=
  decode 0b0000000011100000 = .ok .cls ∧
  decode 0b0001001000110100 = .ok (.jp 0x234) ∧
  decode 0b1000101010110110 = .ok (.shr 0xA 0xB) ∧
  decode 0b1101000100100101 = .ok (.drw 1 2 5) ∧
  decode 0b1110000110011110 = .ok (.skp 1) ∧
  decode 0b1111001001100101 = .ok (.ldVxMem 2)

/-! ### Step -/

/-- When the opcode at pc decodes to `i`, a Step is `exec` of `i` on the state with pc advanced by 2 and nothing else
changed (40_cycle.md R122, R123). -/
def Obligations.StepRunsTheDecodedInstruction : Prop :=
  ∀ (s : State) (i : Instr), s.canFetch → decode s.opcodeAtPc = .ok i → step s = exec i { s with pc := s.pc + 2 }

/-- When the two bytes of an encoded instruction stand at pc and pc + 1, the high byte at the lower address, a Step runs
it (20_memory.md R63, 40_cycle.md R122). -/
def Obligations.StepRunsTheStoredInstruction : Prop :=
  ∀ (s : State) (i : Instr), s.canFetch →
    s.cell s.pc.toNat = hiByte (encode i) → s.cell (s.pc.toNat + 1) = loByte (encode i) →
    step s = exec i { s with pc := s.pc + 2 }

/-- A Step while AwaitingKey returns the state unchanged, wherever pc stands (40_cycle.md R125). -/
def Obligations.PausedStepChangesNothing : Prop :=
  ∀ s : State, s.paused = true → step s = .next s

/-- An opcode that no row selects is passed over and reported, and nothing else changes (40_cycle.md R124). Which
opcodes these are rests on the spec's decision D12 (log entry 15), that events are kept on D21 (log entry 3). -/
def Obligations.UnknownOpcodeIsPassedOver : Prop :=
  ∀ s : State, s.canFetch → (∀ row ∈ opcodeMap, row.selects s.opcodeAtPc = false) →
    step s = .next { s with pc := s.pc + 2, events := s.events ++ [.unknownOpcode s.opcodeAtPc s.pc] }

/-- A fetch whose second cell does not exist is the fatal fault, with pc as the instruction's address and the first
address of the fetch that does not exist; pc is not advanced and nothing wraps (20_memory.md R61; the spec's decisions
D13 and D14, log entries 19 and 22). -/
def Obligations.FetchPastMemoryFaults : Prop :=
  ∀ s : State, s.paused = false → 4095 ≤ s.pc.toNat →
    step s = .fault (.memoryOutOfBounds s.pc (max s.pc.toNat 4096))

/-- No Step of any state is refused: every instruction has a meaning (40_cycle.md R123, R124). -/
def Obligations.StepNeverRefuses : Prop :=
  ∀ (s : State) (r : Refusal), step s ≠ .refused r

/-! ### Invariants and whole-machine rules -/

/-- Every Step keeps the invariant: memory canonical and in bounds, the bitmap of the display's size, the stack within
its capacity, pc at most 4350 and return addresses at most 4096 (10_state.md R26, R27, R40; 20_memory.md R60). -/
def Obligations.StepKeepsTheInvariant : Prop :=
  ∀ s t : State, s.Inv → step s = .next t → t.Inv

/-- Every operation of the host keeps the invariant: Step, Tick, KeyAccept, KeyDown, KeyUp, LoadProgram and Reset
(40_cycle.md R120, R131). That Reset keeps the parameters is log entry 33. -/
def Obligations.HostOperationsKeepTheInvariant : Prop :=
  (∀ (op : HostOp) (s t : State), s.Inv → perform op s = .next t → t.Inv) ∧
  (∀ (bytes : List Byte) (s t : State), s.Inv → loadProgram bytes s = .next t → t.Inv) ∧
  (∀ s : State, s.Inv → (reset s).Inv)

/-- The state after Reset meets the invariant, in every instantiation the rules are written for and from whatever state
Reset is invoked (70_reset_and_hazards.md R280). That Reset keeps the parameters is log entry 33. -/
def Obligations.ResetMeetsTheInvariant : Prop :=
  State.reset.Inv ∧ (∀ c : Config, c.wellFormed = true → (State.resetWith c).Inv) ∧
  ∀ s : State, s.cfg.wellFormed = true → (reset s).Inv

/-- An instruction writes no general register that its rule does not name (10_state.md R21, R22). -/
def Obligations.OnlyNamedRegistersAreWritten : Prop :=
  ∀ (i : Instr) (s t : State) (r : RegIx), exec i s = .next t → writesReg i r = false → t.reg r = s.reg r

/-- Memory changes only in the cells from `I` that `Fx33` and `Fx55` store to (20_memory.md R65). -/
def Obligations.OnlyStoredCellsAreWritten : Prop :=
  ∀ (i : Instr) (s t : State) (addr : Nat), exec i s = .next t →
    (addr < s.effAddr 0 ∨ s.effAddr (storedCells i) ≤ addr) → t.cell addr = s.cell addr

/-- pc beyond the advance, `I`, the call stack, the timers, the pause state, the display, the keys, the draws and the
parameters change only by the instructions named for each (10_state.md R23, R25, R27, R28, R29; 44_display.md R210;
60_exceptions.md R256, R259). That the parameters, the events, the display, the keys and the count of draws stand in the
state is the model's choice (log entries 1, 3, 4, 5, 6; the spec's decisions D21, D22, D25, D26). -/
def Obligations.OnlyNamedControlStateIsWritten : Prop :=
  ∀ (i : Instr) (s t : State), exec i s = .next t →
    (writesPc i = false → t.pc = s.pc) ∧ (writesI i = false → t.i = s.i) ∧
    (writesStack i = false → t.stack = s.stack) ∧
    ((∀ x, i ≠ .ldDTVx x) → t.dt = s.dt) ∧ ((∀ x, i ≠ .ldSTVx x) → t.st = s.st) ∧
    ((∀ x, i ≠ .ldVxK x) → t.paused = s.paused ∧ t.pending = s.pending) ∧
    (writesDisplay i = false → t.display = s.display ∧ t.events = s.events) ∧
    ((∀ x kk, i ≠ .rnd x kk) → t.draws = s.draws) ∧ t.keys = s.keys ∧ t.cfg = s.cfg

/-- Step, Tick, KeyAccept, KeyDown, KeyUp and LoadProgram take back no event, and none of them nor Reset writes the
parameters; Step, Tick and LoadProgram leave the key levels alone, so that all Steps of one Tick see the same keys
(00_scope.md R9, 10_state.md R32, 40_cycle.md R121, R131, 60_exceptions.md R256). That events are kept is the spec's
decision D21 (log entry 3), that the parameters stand in the state log entry 1, that Reset keeps them and empties the
events log entry 33. -/
def Obligations.OperationsKeepKeysParametersAndEvents : Prop :=
  (∀ (op : HostOp) (s t : State), perform op s = .next t →
    s.events <+: t.events ∧ t.cfg = s.cfg ∧ ((op = .step ∨ op = .tick) → t.keys = s.keys)) ∧
  (∀ (bytes : List Byte) (s t : State), loadProgram bytes s = .next t →
    t.events = s.events ∧ t.cfg = s.cfg ∧ t.keys = s.keys) ∧
  (∀ s : State, (reset s).cfg = s.cfg ∧ (reset s).events = [])

/-- A fault of an instruction is one the fault table lists for it and records the instruction's address, and no
instruction raises two causes (60_exceptions.md R240, R250; what is recorded is the spec's decision D13, log entry 22). -/
def Obligations.FaultsAreThoseOfTheTable : Prop :=
  ∀ (i : Instr) (s : State) (f : Fault), exec i s = .fault f →
    mayRaise i f = true ∧ f.instruction = some (s.pc - 2) ∧ ∀ (s' : State) (f' : Fault), exec i s' = .fault f' → f'.code = f.code

/-- An instruction for which the fault table lists no cause completes in every state (60_exceptions.md R240). -/
def Obligations.FaultlessInstructionsComplete : Prop :=
  ∀ (i : Instr) (s : State), (∀ f, mayRaise i f = false) → ∃ t, exec i s = .next t

/-- Only `Fx0A` enters AwaitingKey, and only a key-accept leaves it; until then no operation changes anything but the
key levels (60_exceptions.md R261, 10_state.md R29). That every KeyDown is accepted is the spec's decision D18 (log
entry 24). -/
def Obligations.PauseIsEnteredAndLeftOnlyAsNamed : Prop :=
  (∀ (i : Instr) (s t : State), exec i s = .next t → s.paused = false → t.paused = true → ∃ x, i = .ldVxK x) ∧
  (∀ (op : HostOp) (s t : State), s.paused = true → perform op s = .next t →
    (t = { s with keys := t.keys } ∨ ∃ k, op = .keyAccept k ∨ op = .keyDown k))

/-! ### Reset and the operations of the host -/

/-- After Reset, invoked from any state, pc is 0x200, with no vector in between: the first fetch is of the cells 0x200
and 0x201 (10_state.md R36). -/
def Obligations.ResetEntersAt0x200 : Prop :=
  State.reset.pc = 0x200 ∧ ∀ s : State, (reset s).pc = 0x200 ∧ (reset s).canFetch ∧
    (reset s).opcodeAtPc = opcodeOf ((reset s).cell 0x200) ((reset s).cell 0x201)

/-- Reset depends on no state before it, but for the parameters (70_reset_and_hazards.md R280; log entry 33). The reset
values other than pc are the spec's decisions, not the source's: zero registers, timers and memory above the font, an
empty stack, Running (D9, log entries 7 and 9), FONT in the cells 0 .. 79 and the 80 bytes this hardware takes for it (D8,
log entry 8), a clear display and keys up (D25, D26, log entries 4 and 5). -/
def Obligations.ResetHoldsTheDecidedValues : Prop :=
  State.reset = State.resetWith defaultConfig ∧ (∀ s : State, reset s = State.resetWith s.cfg) ∧
  (∀ c : Config, let s := State.resetWith c
    (∀ r, s.reg r = 0) ∧ s.i = 0 ∧ s.stack = [] ∧ s.dt = 0 ∧ s.st = 0 ∧ s.paused = false ∧ s.pending = 0 ∧
    (∀ addr (h : addr < 80), s.cell addr = c.font[addr]) ∧ (∀ addr, 80 ≤ addr → s.cell addr = 0) ∧
    (∀ px py, s.pixel px py = false) ∧ (∀ k, s.isKeyDown k = false) ∧ s.cfg = c) ∧
  (List.range 80).map State.reset.cell =
    [0xF0, 0x90, 0x90, 0x90, 0xF0] ++ [0x20, 0x60, 0x20, 0x20, 0x70] ++ [0xF0, 0x10, 0xF0, 0x80, 0xF0] ++
    [0xF0, 0x10, 0xF0, 0x10, 0xF0] ++ [0x90, 0x90, 0xF0, 0x10, 0x10] ++ [0xF0, 0x80, 0xF0, 0x10, 0xF0] ++
    [0xF0, 0x80, 0xF0, 0x90, 0xF0] ++ [0xF0, 0x10, 0x20, 0x40, 0x40] ++ [0xF0, 0x90, 0xF0, 0x90, 0xF0] ++
    [0xF0, 0x90, 0xF0, 0x10, 0xF0] ++ [0xF0, 0x90, 0xF0, 0x90, 0x90] ++ [0xE0, 0x90, 0xE0, 0x90, 0xE0] ++
    [0xF0, 0x80, 0x80, 0x80, 0xF0] ++ [0xE0, 0x90, 0x90, 0x90, 0xE0] ++ [0xF0, 0x80, 0xF0, 0x80, 0xF0] ++
    [0xF0, 0x80, 0xF0, 0x80, 0x80]

/-- LoadProgram on the state Reset produced, with the keys at any levels, copies the bytes to 0x200 and on and writes
nothing else; more than 3584 bytes are the fatal fault; on any other state it has no transition (40_cycle.md R121; the
spec's decision D17, log entry 23). Key events before the load do not stand in its way (60_exceptions.md R262;
the keys are the input device's by D25, log entry 5, and KeyAccept while Running has no effect by D18, log entry 24). -/
def Obligations.LoadProgramCopiesTheBytes : Prop :=
  (∀ (bytes : List Byte) (c : Config) (keys : Vector Bool 16), let s := { State.resetWith c with keys := keys }
    (bytes.length ≤ 3584 → ∃ t, loadProgram bytes s = .next t ∧
      (∀ k (h : k < bytes.length), t.cell (0x200 + k) = bytes[k]) ∧
      (∀ addr, (addr < 0x200 ∨ 0x200 + bytes.length ≤ addr) → t.cell addr = s.cell addr) ∧
      t = { s with mem := t.mem }) ∧
    (3584 < bytes.length → loadProgram bytes s = .fault (.programTooLarge bytes.length))) ∧
  (∀ (bytes : List Byte) (s : State), s ≠ { State.resetWith s.cfg with keys := s.keys } →
    loadProgram bytes s = .refused .loadNotAtReset) ∧
  (∀ (k : KeyCode) (s : State), s.atReset → (keyDown k s).atReset ∧ (keyUp k s).atReset ∧ keyAccept k s = s)

/-- A Tick runs STEPS_PER_TICK Steps; then, unless the machine is paused, both timers go down by one and stop at 0; a
fault of a Step is the Tick's outcome (40_cycle.md R126). The number of Steps is a parameter (the spec's decision D7, log
entry 14). -/
def Obligations.TickDecrementsTheTimersOnce : Prop :=
  ∀ s : State,
    (∀ t, steps s.cfg.stepsPerTick s = .next t → ∃ u, tick s = .next u ∧
      u.dt.toNat = (if t.paused then t.dt.toNat else t.dt.toNat - 1) ∧
      u.st.toNat = (if t.paused then t.st.toNat else t.st.toNat - 1) ∧ u = { t with dt := u.dt, st := u.st }) ∧
    (∀ f, steps s.cfg.stepsPerTick s = .fault f → tick s = .fault f)

/-- A Tick that begins in AwaitingKey changes nothing at all (40_cycle.md R127). -/
def Obligations.PausedTickChangesNothing : Prop :=
  ∀ s : State, s.paused = true → tick s = .next s

/-- A jump to itself is a fixed point of Step, and a Tick spent in it only takes the timers down
(70_reset_and_hazards.md R292, 40_cycle.md R126). -/
def Obligations.TickAtJumpToSelfOnlyDecrements : Prop :=
  ∀ (s : State) (nnn : Addr12), s.canFetch → s.pc = nnn.setWidth 16 → s.opcodeAtPc = encode (.jp nnn) →
    step s = .next s ∧ ∃ t, tick s = .next t ∧ t.dt.toNat = s.dt.toNat - 1 ∧ t.st.toNat = s.st.toNat - 1 ∧
      t = { s with dt := t.dt, st := t.st }

/-- KeyAccept in AwaitingKey writes the key code to the pending register and returns to Running; while Running it has no
effect (40_cycle.md R128; the latter is the spec's decision D18, log entry 24). -/
def Obligations.KeyAcceptCompletesThePause : Prop :=
  ∀ (k : KeyCode) (s : State),
    (s.paused = true → (keyAccept k s).paused = false ∧
      (∀ r, (keyAccept k s).reg r = if r = s.pending then k.setWidth 8 else s.reg r) ∧
      keyAccept k s = { s with v := (keyAccept k s).v, paused := false }) ∧
    (s.paused = false → keyAccept k s = s)

/-- KeyDown takes its key down and no other, and is a key-accept exactly in AwaitingKey; KeyUp takes its key up and has no
effect on the core (40_cycle.md R129, R130; the spec's decision D18, log entry 24). -/
def Obligations.KeyEventsSetTheKeyLevel : Prop :=
  ∀ (k : KeyCode) (s : State),
    (∀ j, (keyDown k s).isKeyDown j = if j = k then true else s.isKeyDown j) ∧
    (s.paused = false → keyDown k s = { s with keys := (keyDown k s).keys }) ∧
    (s.paused = true → keyDown k s = { keyAccept k s with keys := (keyDown k s).keys }) ∧
    (∀ j, (keyUp k s).isKeyDown j = if j = k then false else s.isKeyDown j) ∧
    keyUp k s = { s with keys := (keyUp k s).keys }

/-! ### Control transfer (41_flow.md) -/

/-- `1nnn`: pc takes the zero-extended `nnn`; no flag, no fault (R142). -/
def Obligations.JumpSetsPc : Prop :=
  ∀ (nnn : Addr12) (s : State), decode (0x1#4 ++ nnn) = .ok (.jp nnn) ∧
    ∃ t, exec (.jp nnn) s = .next t ∧ t.pc.toNat = nnn.toNat ∧ t = { s with pc := t.pc }

/-- `2nnn`: the advanced pc is pushed and pc takes `nnn`, unless a finite STACK_CAPACITY is reached, which is the fault
`StackOverflow`; the default is unbounded (R143, 10_state.md R27; the spec's decision D6, log entry 13). -/
def Obligations.CallPushesTheAdvancedPc : Prop :=
  ∀ (nnn : Addr12) (s : State),
    ((∀ c, s.cfg.stackCapacity = some c → s.stack.length < c) → ∃ t, exec (.call nnn) s = .next t ∧
      t.stack = s.stack ++ [s.pc] ∧ t.pc.toNat = nnn.toNat ∧ t = { s with stack := t.stack, pc := t.pc }) ∧
    (∀ c, s.cfg.stackCapacity = some c → c ≤ s.stack.length →
      exec (.call nnn) s = .fault (.stackOverflow (s.pc - 2)))

/-- `00EE`: the top of the call stack goes to pc as it is and is removed; on the empty stack it is the fault
`StackUnderflow` with the instruction's address (R141; the recorded address is the spec's decision D13, log entry 22). -/
def Obligations.ReturnPopsIntoPc : Prop :=
  decode 0x00EE = .ok .ret ∧ ∀ s : State,
    (∀ ws w, s.stack = ws ++ [w] → ∃ t, exec .ret s = .next t ∧ t = { s with stack := ws, pc := w }) ∧
    (s.stack = [] → exec .ret s = .fault (.stackUnderflow (s.pc - 2)))

/-- A call whose target holds `00EE` comes back to the instruction after the call with the stack as it was (R143,
90_conflicts.md C4). -/
def Obligations.CallThenReturnComesBack : Prop :=
  ∀ (nnn : Addr12) (s : State), s.canFetch → s.opcodeAtPc = encode (.call nnn) →
    nnn.toNat + 1 < memSize → s.cell nnn.toNat = 0x00 → s.cell (nnn.toNat + 1) = 0xEE →
    (∀ c, s.cfg.stackCapacity = some c → s.stack.length < c) →
    steps 2 s = .next { s with pc := s.pc + 2 }

/-- `3xkk` skips when `V[x] = kk`, `4xkk` when `V[x] != kk`; nothing but pc changes (R144, R145). -/
def Obligations.SkipsOnImmediate : Prop :=
  ∀ (x : RegIx) (kk : Byte) (s : State),
    decode (0x3#4 ++ (x ++ kk)) = .ok (.seImm x kk) ∧ decode (0x4#4 ++ (x ++ kk)) = .ok (.sneImm x kk) ∧
    (∃ t, exec (.seImm x kk) s = .next t ∧ t = { s with pc := if s.reg x = kk then s.pc + 2 else s.pc }) ∧
    (∃ t, exec (.sneImm x kk) s = .next t ∧ t = { s with pc := if s.reg x = kk then s.pc else s.pc + 2 })

/-- `9xy0` skips when `V[x] != V[y]`, so never for x = y; nothing but pc changes (R147). -/
def Obligations.SkipsOnRegistersNotEqual : Prop :=
  ∀ (x y : RegIx) (s : State), decode (0x9#4 ++ (x ++ (y ++ 0x0#4))) = .ok (.sneReg x y) ∧
    (∃ t, exec (.sneReg x y) s = .next t ∧ t = { s with pc := if s.reg x = s.reg y then s.pc else s.pc + 2 }) ∧
    exec (.sneReg x x) s = .next s

/-- `5xy0` skips on not equal under the value this hardware takes for SKIP5_SENSE, exactly as `9xy0`, and on equal under
the other; nothing but pc changes (R146; the spec's decision D1, log entry 10). -/
def Obligations.Skip5FollowsItsSense : Prop :=
  ∀ (x y : RegIx) (s : State),
    (s.cfg.skip5Sense = .notEqual → exec (.sne5 x y) s = exec (.sneReg x y) s) ∧
    ∃ t, exec (.sne5 x y) s = .next t ∧ t = { s with pc := t.pc } ∧
      (s.cfg.skip5Sense = .notEqual → t.pc = if s.reg x = s.reg y then s.pc else s.pc + 2) ∧
      (s.cfg.skip5Sense = .equal → t.pc = if s.reg x = s.reg y then s.pc + 2 else s.pc)

/-- `Bnnn`: pc takes the sum `nnn + V[0]`, not reduced, under the value this hardware takes for JP_V0_FORM, and
`nnn & ((0xFFF + V[0]) mod 65536)` under the other; nothing but pc changes (R148; the spec's decision D2, log entry 11). -/
def Obligations.JumpV0FollowsItsForm : Prop :=
  ∀ (nnn : Addr12) (s : State), ∃ t, exec (.jpV0 nnn) s = .next t ∧ t = { s with pc := t.pc } ∧
    (s.cfg.jpV0Form = .sum → t.pc.toNat = nnn.toNat + (s.reg 0).toNat) ∧
    (s.cfg.jpV0Form = .referenceAnd → t.pc.toNat = nnn.toNat &&& (0xFFF + (s.reg 0).toNat) % 65536)

/-! ### Registers and ALU (42_alu.md) -/

/-- `6xkk`: `V[x]` takes `kk`; `8xy0`: `V[x]` takes `V[y]`; nothing else changes (R162, R164). -/
def Obligations.LoadsCopyIntoVx : Prop :=
  ∀ (x y : RegIx) (kk : Byte) (s : State),
    decode (0x6#4 ++ (x ++ kk)) = .ok (.ldImm x kk) ∧ decode (0x8#4 ++ (x ++ (y ++ 0x0#4))) = .ok (.ldReg x y) ∧
    (∃ t, exec (.ldImm x kk) s = .next t ∧ (∀ r, t.reg r = if r = x then kk else s.reg r) ∧ t = { s with v := t.v }) ∧
    (∃ t, exec (.ldReg x y) s = .next t ∧ (∀ r, t.reg r = if r = x then s.reg y else s.reg r) ∧ t = { s with v := t.v })

/-- `7xkk`: `V[x]` takes `(V[x] + kk) mod 256`; no other register changes, so no flag is written (R163). -/
def Obligations.AddImmediateWraps : Prop :=
  ∀ (x : RegIx) (kk : Byte) (s : State), decode (0x7#4 ++ (x ++ kk)) = .ok (.addImm x kk) ∧
    ∃ t, exec (.addImm x kk) s = .next t ∧
      (∀ r, (t.reg r).toNat = if r = x then ((s.reg x).toNat + kk.toNat) % 256 else (s.reg r).toNat) ∧
      t = { s with v := t.v }

/-- `8xy1`, `8xy2`, `8xy3`: `V[x]` takes the bitwise OR, AND, exclusive OR; `V[15]` is not written as a flag (R165, R166,
R167). -/
def Obligations.LogicIsBitwiseWithoutFlag : Prop :=
  ∀ (x y : RegIx) (s : State),
    (decode (0x8#4 ++ (x ++ (y ++ 0x1#4))) = .ok (.orReg x y) ∧
      decode (0x8#4 ++ (x ++ (y ++ 0x2#4))) = .ok (.andReg x y) ∧
      decode (0x8#4 ++ (x ++ (y ++ 0x3#4))) = .ok (.xorReg x y)) ∧
    (∃ t, exec (.orReg x y) s = .next t ∧ t = { s with v := t.v } ∧ ∀ r k,
      (t.reg r).getLsbD k = if r = x then ((s.reg x).getLsbD k || (s.reg y).getLsbD k) else (s.reg r).getLsbD k) ∧
    (∃ t, exec (.andReg x y) s = .next t ∧ t = { s with v := t.v } ∧ ∀ r k,
      (t.reg r).getLsbD k = if r = x then ((s.reg x).getLsbD k && (s.reg y).getLsbD k) else (s.reg r).getLsbD k) ∧
    (∃ t, exec (.xorReg x y) s = .next t ∧ t = { s with v := t.v } ∧ ∀ r k,
      (t.reg r).getLsbD k = if r = x then ((s.reg x).getLsbD k ^^ (s.reg y).getLsbD k) else (s.reg r).getLsbD k)

/-- `8xy4`: `V[15]` takes the carry out of the 9-bit sum and `V[x]`, where it is another register, the sum mod 256 (R168).
That the flag is what `V[15]` ends as for x = 15 rests on the written order, the spec's decision D10 (log entry 16). -/
def Obligations.AddSetsResultThenCarry : Prop :=
  ∀ (x y : RegIx) (s : State), ∃ t, exec (.addReg x y) s = .next t ∧ t = { s with v := t.v } ∧
    ∀ r, (t.reg r).toNat =
      if r = flagReg then (if 255 < (s.reg x).toNat + (s.reg y).toNat then 1 else 0)
      else if r = x then ((s.reg x).toNat + (s.reg y).toNat) % 256 else (s.reg r).toNat

/-- `8xy5`: `V[15]` takes 1 exactly when `V[x] > V[y]`, and `V[x]` the difference mod 256 of the registers as the flag
write left them (R169). The forms with x = 15 or y = 15 rest on the written order, the spec's decision D10 (log
entry 16). -/
def Obligations.SubSetsFlagThenWraps : Prop :=
  ∀ (x y : RegIx) (s : State), let a := (s.reg x).toNat; let b := (s.reg y).toNat
    let c := if b < a then 1 else 0
    ∃ t, exec (.subReg x y) s = .next t ∧ t = { s with v := t.v } ∧ ∀ r, (t.reg r).toNat =
      if r = x then
        (if x = flagReg then (if y = flagReg then 0 else (c + 256 - b) % 256)
         else if y = flagReg then (a + 256 - c) % 256 else (a + 256 - b) % 256)
      else if r = flagReg then c else (s.reg r).toNat

/-- `8xy7`: `V[15]` takes 1 exactly when `V[y] > V[x]`, and `V[x]` the difference `V[y] - V[x]` of the registers as the
flag write left them; where that underflows it is the fault `ArithmeticUnderflow` (R171; the spec's decision D3, log
entry 18). The forms with x = 15 or y = 15 rest on the written order (D10, log entry 16); with x = 15 it never faults. -/
def Obligations.SubnSetsFlagThenSubtracts : Prop :=
  ∀ (x y : RegIx) (s : State), let a := (s.reg x).toNat; let b := (s.reg y).toNat
    let c := if a < b then 1 else 0
    let subtrahend := if x = flagReg then c else a
    let minuend := if y = flagReg then c else b
    (minuend < subtrahend → exec (.subn x y) s = .fault (.arithmeticUnderflow (s.pc - 2))) ∧
    (subtrahend ≤ minuend → ∃ t, exec (.subn x y) s = .next t ∧ t = { s with v := t.v } ∧ ∀ r, (t.reg r).toNat =
      if r = x then minuend - subtrahend else if r = flagReg then c else (s.reg r).toNat) ∧
    (x = flagReg → subtrahend ≤ minuend)

/-- `8xy6`: `V[15]` takes bit 0 of `V[x]` and `V[x]` half of it, `y` ignored (R170; 30_encoding.md R96). That `V[15]` ends
as 0 for x = 15 rests on the written order, the spec's decision D10 (log entry 16). -/
def Obligations.ShiftRightSetsBitOut : Prop :=
  ∀ (x y : RegIx) (s : State), ∃ t, exec (.shr x y) s = .next t ∧ t = { s with v := t.v } ∧
    ∀ r, (t.reg r).toNat =
      if r = x then (if x = flagReg then 0 else (s.reg x).toNat / 2)
      else if r = flagReg then (s.reg x).toNat % 2 else (s.reg r).toNat

/-- `8xyE`: `V[15]` takes 0x80, not 1, when bit 7 of `V[x]` was set, else 0, and `V[x]` its double mod 256, `y` ignored
(R172, log entry 32; 30_encoding.md R96). That `V[15]` ends as 0 for x = 15 rests on the written order, the spec's decision
D10 (log entry 16). -/
def Obligations.ShiftLeftSetsMaskedFlag : Prop :=
  ∀ (x y : RegIx) (s : State), ∃ t, exec (.shl x y) s = .next t ∧ t = { s with v := t.v } ∧
    ∀ r, (t.reg r).toNat =
      if r = x then (if x = flagReg then 0 else 2 * (s.reg x).toNat % 256)
      else if r = flagReg then (if 128 ≤ (s.reg x).toNat then 128 else 0) else (s.reg r).toNat

/-- `Cxkk`: exactly one draw is consumed and `V[x]` takes the draw, whatever it is, masked by `kk`; a mask of 0 gives 0
(R173, 60_exceptions.md R259; the draw is a free value, the spec's decision D22, log entry 6). -/
def Obligations.RandomIsTheMaskedDraw : Prop :=
  ∀ (x : RegIx) (kk : Byte) (s : State), ∃ t, exec (.rnd x kk) s = .next t ∧
    t = { s with v := t.v, draws := s.draws + 1 } ∧ (∀ r, r ≠ x → t.reg r = s.reg r) ∧
    (∀ k, (t.reg x).getLsbD k = ((Config.randomByte s.draws).getLsbD k && kk.getLsbD k)) ∧ (kk = 0 → t.reg x = 0)

/-! ### Index register and memory (43_index_memory.md) -/

/-- `Annn`: `I` takes the zero-extended `nnn`; nothing else changes (R191). -/
def Obligations.LoadIndexSetsI : Prop :=
  ∀ (nnn : Addr12) (s : State), decode (0xA#4 ++ nnn) = .ok (.ldI nnn) ∧
    ∃ t, exec (.ldI nnn) s = .next t ∧ t.i.toNat = nnn.toNat ∧ t = { s with i := t.i }

/-- `Fx1E`: `I` takes `I + V[x]`, no flag; a sum above 0xFFFF is the fault `IndexOverflow` (R192; the latter is the spec's
decision D15, log entry 20). -/
def Obligations.AddIndexAddsOrFaults : Prop :=
  ∀ (x : RegIx) (s : State),
    (s.i.toNat + (s.reg x).toNat ≤ 0xFFFF → ∃ t, exec (.addI x) s = .next t ∧
      t.i.toNat = s.i.toNat + (s.reg x).toNat ∧ t = { s with i := t.i }) ∧
    (0xFFFF < s.i.toNat + (s.reg x).toNat → exec (.addI x) s = .fault (.indexOverflow (s.pc - 2)))

/-- `Fx29`: `I` takes five times the whole byte `V[x]`; nothing else changes (R193). -/
def Obligations.GlyphAddressIsFiveTimesVx : Prop :=
  ∀ (x : RegIx) (s : State), decode (0xF#4 ++ (x ++ 0x29#8)) = .ok (.ldF x) ∧
    ∃ t, exec (.ldF x) s = .next t ∧ t.i.toNat = (s.reg x).toNat * 5 ∧ t = { s with i := t.i }

/-- `Fx33`: the cells `I`, `I + 1`, `I + 2` take the hundreds, tens and ones of `V[x]`, every other cell and everything else
stays; with `I + 2 >= 4096` it is the fault (R194, R190; the recorded address is the spec's decision D13, log entry 22). -/
def Obligations.StoreDecimalWritesThreeDigits : Prop :=
  ∀ (x : RegIx) (s : State),
    (s.effAddr 2 < 4096 → ∃ t, exec (.ldB x) s = .next t ∧ t = { s with mem := t.mem } ∧
      (t.cell (s.effAddr 0)).toNat = (s.reg x).toNat / 100 ∧
      (t.cell (s.effAddr 1)).toNat = (s.reg x).toNat / 10 % 10 ∧
      (t.cell (s.effAddr 2)).toNat = (s.reg x).toNat % 10 ∧
      ∀ addr, (addr < s.effAddr 0 ∨ s.effAddr 2 < addr) → t.cell addr = s.cell addr) ∧
    (4096 ≤ s.effAddr 2 → exec (.ldB x) s = .fault (.memoryOutOfBounds (s.pc - 2) (max (s.effAddr 0) 4096)))

/-- `Fx55`: the cells `I` .. `I + x` take `V[0]` .. `V[x]`, every other cell and everything else, `I` included, stays; with
`I + x >= 4096` it is the fault (R195, R190; the recorded address is the spec's decision D13, log entry 22). -/
def Obligations.StoreRegistersWritesTheRange : Prop :=
  ∀ (x : RegIx) (s : State),
    (s.effAddr x.toNat < 4096 → ∃ t, exec (.ldMemVx x) s = .next t ∧ t = { s with mem := t.mem } ∧
      (∀ k : RegIx, k.toNat ≤ x.toNat → t.cell (s.effAddr k.toNat) = s.reg k) ∧
      ∀ addr, (addr < s.effAddr 0 ∨ s.effAddr x.toNat < addr) → t.cell addr = s.cell addr) ∧
    (4096 ≤ s.effAddr x.toNat →
      exec (.ldMemVx x) s = .fault (.memoryOutOfBounds (s.pc - 2) (max (s.effAddr 0) 4096)))

/-- `Fx65`: `V[0]` .. `V[x]` take the cells `I` .. `I + x`, every other register and everything else, `I` included, stays;
with `I + x >= 4096` it is the fault (R196, R190; the recorded address is the spec's decision D13, log entry 22). -/
def Obligations.LoadRegistersReadsTheRange : Prop :=
  ∀ (x : RegIx) (s : State),
    (s.effAddr x.toNat < 4096 → ∃ t, exec (.ldVxMem x) s = .next t ∧ t = { s with v := t.v } ∧
      ∀ r : RegIx, t.reg r = if r.toNat ≤ x.toNat then s.cell (s.effAddr r.toNat) else s.reg r) ∧
    (4096 ≤ s.effAddr x.toNat →
      exec (.ldVxMem x) s = .fault (.memoryOutOfBounds (s.pc - 2) (max (s.effAddr 0) 4096)))

/-! ### Display (44_display.md) -/

/-- `00E0`: every pixel is off, the display is as a fresh one, and one event is emitted; nothing else changes (R211,
60_exceptions.md R253). That the event is kept is the spec's decision D21 (log entry 3), that the display stands in the
state D26 (log entry 4). -/
def Obligations.ClearTurnsEveryPixelOff : Prop :=
  decode 0x00E0 = .ok .cls ∧ ∀ s : State, ∃ t, exec .cls s = .next t ∧ (∀ px py, t.pixel px py = false) ∧
    t.display = (State.resetWith s.cfg).display ∧
    t = { s with display := t.display, events := s.events ++ [.displayClear] }

/-- `Dxyn`: every pixel the sprite covers is inverted and no other, `V[15]` ends as 1 exactly when a covered pixel was on
and else as 0, the requests are emitted in their order, and nothing else changes (R212). The modulo on every pixel, the
operand timing and the bit order are the spec's decisions D4 and D11 (log entry 17), that the requests are kept as events
D21 (log entry 3), that the bitmap answers them D26 (log entry 4). -/
def Obligations.DrawInvertsTheSpritePixels : Prop :=
  ∀ (x y : RegIx) (n : Nibble) (s : State), s.Inv → (n = 0 ∨ s.effAddr n.toNat ≤ 4096) →
    ∃ t, exec (.drw x y n) s = .next t ∧
      (∀ px py, px < s.cfg.displayW → py < s.cfg.displayH →
        (t.pixel px py = true ↔ (s.pixel px py = true ↔ ¬ s.spriteCovers x y n px py))) ∧
      (t.reg flagReg = 1 ↔ ∃ px py, s.spriteCovers x y n px py ∧ s.pixel px py = true) ∧
      (t.reg flagReg = 1 ∨ t.reg flagReg = 0) ∧ (∀ r, r ≠ flagReg → t.reg r = s.reg r) ∧
      t = { s with
        v := t.v
        display := t.display
        events := s.events ++ (s.spriteRequests x y n).map fun p => .displayToggle p.1 p.2 }

/-- `Dxyn` with n >= 1 and `I + n - 1 >= 4096` is the fault, with the lowest address that does not exist (R212; the
recorded address is the spec's decision D13, log entry 22). -/
def Obligations.DrawPastMemoryFaults : Prop :=
  ∀ (x y : RegIx) (n : Nibble) (s : State), n ≠ 0 → 4096 < s.effAddr n.toNat →
    exec (.drw x y n) s = .fault (.memoryOutOfBounds (s.pc - 2) (max (s.effAddr 0) 4096))

/-- Drawing the same sprite twice at the same place restores the display, and the second `V[15]` is 1 exactly when the
first draw turned a pixel on (R212; the spec's decisions D4, D11 and D26, log entries 17, 4 and 34). With x = 15 or y = 15
the first draw writes a coordinate of the second, so that it is another place: each of the two draws is then as
DrawInvertsTheSpritePixels says. -/
def Obligations.DrawingTwiceRestoresTheDisplay : Prop :=
  ∀ (x y : RegIx) (n : Nibble) (s t : State), s.Inv → x ≠ flagReg → y ≠ flagReg → exec (.drw x y n) s = .next t →
    ∃ u, exec (.drw x y n) t = .next u ∧ u.display = s.display ∧
      (u.reg flagReg = 1 ↔ ∃ px py, s.spriteCovers x y n px py ∧ s.pixel px py = false)

/-! ### Keypad and timers (45_keypad_timers.md) -/

/-- `Ex9E` skips when the key in `V[x]` is down, `ExA1` when it is up, and nothing but pc changes; a `V[x]` above 15 is the
fault `KeyOutOfRange` (R221, R222; the latter is the spec's decision D16, log entry 21). -/
def Obligations.SkipsOnKeyLevel : Prop :=
  ∀ (x : RegIx) (s : State),
    (∀ k : KeyCode, s.reg x = k.setWidth 8 →
      (∃ t, exec (.skp x) s = .next t ∧ t = { s with pc := if s.isKeyDown k then s.pc + 2 else s.pc }) ∧
      (∃ t, exec (.sknp x) s = .next t ∧ t = { s with pc := if s.isKeyDown k then s.pc else s.pc + 2 })) ∧
    (15 < (s.reg x).toNat →
      exec (.skp x) s = .fault (.keyOutOfRange (s.pc - 2) (s.reg x)) ∧
      exec (.sknp x) s = .fault (.keyOutOfRange (s.pc - 2) (s.reg x)))

/-- `Fx07`: `V[x]` takes `DT`; nothing else changes (R223). -/
def Obligations.LoadDelayReadsDT : Prop :=
  ∀ (x : RegIx) (s : State), decode (0xF#4 ++ (x ++ 0x07#8)) = .ok (.ldVxDT x) ∧
    ∃ t, exec (.ldVxDT x) s = .next t ∧ (∀ r, t.reg r = if r = x then s.dt else s.reg r) ∧ t = { s with v := t.v }

/-- `Fx15`: `DT` takes `V[x]`; `Fx18`: `ST` takes `V[x]`; nothing else changes (R225, R226). -/
def Obligations.TimerLoadsSetTheTimer : Prop :=
  ∀ (x : RegIx) (s : State),
    decode (0xF#4 ++ (x ++ 0x15#8)) = .ok (.ldDTVx x) ∧ decode (0xF#4 ++ (x ++ 0x18#8)) = .ok (.ldSTVx x) ∧
    (∃ t, exec (.ldDTVx x) s = .next t ∧ t.dt.toNat = (s.reg x).toNat ∧ t = { s with dt := t.dt }) ∧
    (∃ t, exec (.ldSTVx x) s = .next t ∧ t.st.toNat = (s.reg x).toNat ∧ t = { s with st := t.st })

/-- `Fx0A` enters AwaitingKey with the pending register `x` and writes nothing else; every Step then changes nothing, and
the key code `k` of the KeyAccept lands in `V[x]` with the machine Running and pc where it was (R224, 40_cycle.md R125,
R128). -/
def Obligations.AwaitKeyThenAcceptSetsVx : Prop :=
  ∀ (x : RegIx) (s : State), ∃ t, exec (.ldVxK x) s = .next t ∧ t = { s with paused := true, pending := x } ∧
    step t = .next t ∧
    ∀ k : KeyCode, (∀ r, (keyAccept k t).reg r = if r = x then k.setWidth 8 else s.reg r) ∧
      keyAccept k t = { s with v := (keyAccept k t).v, pending := x, paused := false }
end

