-- ==== Sys2Proof/Laws/Decode.lean ====
section
/-! SUPPORT. The fields of an opcode built from a format (30_encoding.md R91, R92), and its two bytes. -/

namespace Sys2Proof

/-- Every instruction's operands fit their fields: the fields' types are the encoding's own. -/
theorem Laws.Instr.wellFormed_all (i : Instr) : i.wellFormed = true := by
  have fits : ∀ {k : Nat} (u : BitVec k), fieldFits k u.toNat = true := fun u => decide_eq_true u.isLt
  cases i <;> simp only [Instr.wellFormed, Instr.operands, List.all_cons, List.all_nil, fits, Bool.and_true]

/-- A field below the split of a concatenation is a field of the lower part. -/
theorem extractLsb'_append_low {a b start len : Nat} (u : BitVec a) (v : BitVec b) (h : start + len ≤ b) :
    (u ++ v).extractLsb' start len = v.extractLsb' start len := by
  ext k hk
  simp [BitVec.getLsbD_append, show start + k < b by omega]

variable (fam x y n : Nibble) (kk : Byte) (nnn : Addr12)

@[simp] theorem opFam_formatA : opFam (formatA fam nnn) = fam := BitVec.extractLsb'_append_eq_left
@[simp] theorem opNNN_formatA : opNNN (formatA fam nnn) = nnn := BitVec.extractLsb'_append_eq_right

@[simp] theorem opFam_formatK : opFam (formatK fam x kk) = fam := BitVec.extractLsb'_append_eq_left
@[simp] theorem opX_formatK : opX (formatK fam x kk) = x := by
  rw [opX, formatK, extractLsb'_append_low _ _ (by decide)]
  exact BitVec.extractLsb'_append_eq_left
@[simp] theorem opKK_formatK : opKK (formatK fam x kk) = kk := by
  rw [opKK, formatK, extractLsb'_append_low _ _ (by decide)]
  exact BitVec.extractLsb'_append_eq_right

@[simp] theorem opFam_formatR : opFam (formatR fam x y n) = fam := BitVec.extractLsb'_append_eq_left
@[simp] theorem opX_formatR : opX (formatR fam x y n) = x := by
  rw [opX, formatR, extractLsb'_append_low _ _ (by decide)]
  exact BitVec.extractLsb'_append_eq_left
@[simp] theorem opY_formatR : opY (formatR fam x y n) = y := by
  rw [opY, formatR, extractLsb'_append_low _ _ (by decide), extractLsb'_append_low _ _ (by decide)]
  exact BitVec.extractLsb'_append_eq_left
@[simp] theorem opN_formatR : opN (formatR fam x y n) = n := by
  rw [opN, formatR, extractLsb'_append_low _ _ (by decide), extractLsb'_append_low _ _ (by decide)]
  exact BitVec.extractLsb'_append_eq_right

/-- The high and the low byte of two bytes make them up again. -/
theorem append_extract_bytes (w : BitVec (8 + 8)) : w.extractLsb' 8 8 ++ w.extractLsb' 0 8 = w := by
  ext k hk
  rw [BitVec.getElem_append, ← BitVec.getLsbD_eq_getElem hk]
  split_ifs
  · simp
  · simp [show 8 + (k - 8) = k by omega]

/-- The two bytes of an opcode make it up again (20_memory.md R63). -/
@[simp] theorem opcodeOf_bytes (w : Word) : opcodeOf (hiByte w) (loByte w) = w := append_extract_bytes w

@[simp] theorem hiByte_opcodeOf (hi lo : Byte) : hiByte (opcodeOf hi lo) = hi := BitVec.extractLsb'_append_eq_left
@[simp] theorem loByte_opcodeOf (hi lo : Byte) : loByte (opcodeOf hi lo) = lo := BitVec.extractLsb'_append_eq_right

end Sys2Proof
end

