-- ==== Sys2Proof/Laws/State.lean ====
section
/-! SUPPORT. One lemma per field and update of the state: what the update writes, and that it writes nothing else. -/

namespace Sys2Proof.Machine

variable (s : State)

/-! ### setReg -/

@[simp] theorem State.setReg_v (r : RegIx) (b : Byte) : (s.setReg r b).v = s.v.set r.toNat b r.isLt := rfl
@[simp] theorem State.setReg_i (r : RegIx) (b : Byte) : (s.setReg r b).i = s.i := rfl
@[simp] theorem State.setReg_pc (r : RegIx) (b : Byte) : (s.setReg r b).pc = s.pc := rfl
@[simp] theorem State.setReg_stack (r : RegIx) (b : Byte) : (s.setReg r b).stack = s.stack := rfl
@[simp] theorem State.setReg_dt (r : RegIx) (b : Byte) : (s.setReg r b).dt = s.dt := rfl
@[simp] theorem State.setReg_st (r : RegIx) (b : Byte) : (s.setReg r b).st = s.st := rfl
@[simp] theorem State.setReg_paused (r : RegIx) (b : Byte) : (s.setReg r b).paused = s.paused := rfl
@[simp] theorem State.setReg_pending (r : RegIx) (b : Byte) : (s.setReg r b).pending = s.pending := rfl
@[simp] theorem State.setReg_mem (r : RegIx) (b : Byte) : (s.setReg r b).mem = s.mem := rfl
@[simp] theorem State.setReg_display (r : RegIx) (b : Byte) : (s.setReg r b).display = s.display := rfl
@[simp] theorem State.setReg_keys (r : RegIx) (b : Byte) : (s.setReg r b).keys = s.keys := rfl
@[simp] theorem State.setReg_events (r : RegIx) (b : Byte) : (s.setReg r b).events = s.events := rfl
@[simp] theorem State.setReg_draws (r : RegIx) (b : Byte) : (s.setReg r b).draws = s.draws := rfl
@[simp] theorem State.setReg_cfg (r : RegIx) (b : Byte) : (s.setReg r b).cfg = s.cfg := rfl
@[simp] theorem State.setReg_cell (r : RegIx) (b : Byte) (addr : Nat) : (s.setReg r b).cell addr = s.cell addr := rfl
@[simp] theorem State.setReg_pixel (r : RegIx) (b : Byte) (px py : Nat) : (s.setReg r b).pixel px py = s.pixel px py := rfl
@[simp] theorem State.setReg_isKeyDown (r : RegIx) (b : Byte) (j : KeyCode) : (s.setReg r b).isKeyDown j = s.isKeyDown j := rfl

/-! ### setFlag -/

@[simp] theorem State.setFlag_v (b : Byte) : (s.setFlag b).v = s.v.set flagReg.toNat b flagReg.isLt := rfl
@[simp] theorem State.setFlag_i (b : Byte) : (s.setFlag b).i = s.i := rfl
@[simp] theorem State.setFlag_pc (b : Byte) : (s.setFlag b).pc = s.pc := rfl
@[simp] theorem State.setFlag_stack (b : Byte) : (s.setFlag b).stack = s.stack := rfl
@[simp] theorem State.setFlag_dt (b : Byte) : (s.setFlag b).dt = s.dt := rfl
@[simp] theorem State.setFlag_st (b : Byte) : (s.setFlag b).st = s.st := rfl
@[simp] theorem State.setFlag_paused (b : Byte) : (s.setFlag b).paused = s.paused := rfl
@[simp] theorem State.setFlag_pending (b : Byte) : (s.setFlag b).pending = s.pending := rfl
@[simp] theorem State.setFlag_mem (b : Byte) : (s.setFlag b).mem = s.mem := rfl
@[simp] theorem State.setFlag_display (b : Byte) : (s.setFlag b).display = s.display := rfl
@[simp] theorem State.setFlag_keys (b : Byte) : (s.setFlag b).keys = s.keys := rfl
@[simp] theorem State.setFlag_events (b : Byte) : (s.setFlag b).events = s.events := rfl
@[simp] theorem State.setFlag_draws (b : Byte) : (s.setFlag b).draws = s.draws := rfl
@[simp] theorem State.setFlag_cfg (b : Byte) : (s.setFlag b).cfg = s.cfg := rfl
@[simp] theorem State.setFlag_cell (b : Byte) (addr : Nat) : (s.setFlag b).cell addr = s.cell addr := rfl
@[simp] theorem State.setFlag_pixel (b : Byte) (px py : Nat) : (s.setFlag b).pixel px py = s.pixel px py := rfl
@[simp] theorem State.setFlag_isKeyDown (b : Byte) (j : KeyCode) : (s.setFlag b).isKeyDown j = s.isKeyDown j := rfl

/-! ### setI -/

@[simp] theorem State.setI_v (w : Word) : (s.setI w).v = s.v := rfl
@[simp] theorem State.setI_i (w : Word) : (s.setI w).i = w := rfl
@[simp] theorem State.setI_pc (w : Word) : (s.setI w).pc = s.pc := rfl
@[simp] theorem State.setI_stack (w : Word) : (s.setI w).stack = s.stack := rfl
@[simp] theorem State.setI_dt (w : Word) : (s.setI w).dt = s.dt := rfl
@[simp] theorem State.setI_st (w : Word) : (s.setI w).st = s.st := rfl
@[simp] theorem State.setI_paused (w : Word) : (s.setI w).paused = s.paused := rfl
@[simp] theorem State.setI_pending (w : Word) : (s.setI w).pending = s.pending := rfl
@[simp] theorem State.setI_mem (w : Word) : (s.setI w).mem = s.mem := rfl
@[simp] theorem State.setI_display (w : Word) : (s.setI w).display = s.display := rfl
@[simp] theorem State.setI_keys (w : Word) : (s.setI w).keys = s.keys := rfl
@[simp] theorem State.setI_events (w : Word) : (s.setI w).events = s.events := rfl
@[simp] theorem State.setI_draws (w : Word) : (s.setI w).draws = s.draws := rfl
@[simp] theorem State.setI_cfg (w : Word) : (s.setI w).cfg = s.cfg := rfl
@[simp] theorem State.setI_reg (w : Word) (q : RegIx) : (s.setI w).reg q = s.reg q := rfl
@[simp] theorem State.setI_cell (w : Word) (addr : Nat) : (s.setI w).cell addr = s.cell addr := rfl
@[simp] theorem State.setI_pixel (w : Word) (px py : Nat) : (s.setI w).pixel px py = s.pixel px py := rfl
@[simp] theorem State.setI_isKeyDown (w : Word) (j : KeyCode) : (s.setI w).isKeyDown j = s.isKeyDown j := rfl

/-! ### setPc -/

@[simp] theorem State.setPc_v (w : Word) : (s.setPc w).v = s.v := rfl
@[simp] theorem State.setPc_i (w : Word) : (s.setPc w).i = s.i := rfl
@[simp] theorem State.setPc_pc (w : Word) : (s.setPc w).pc = w := rfl
@[simp] theorem State.setPc_stack (w : Word) : (s.setPc w).stack = s.stack := rfl
@[simp] theorem State.setPc_dt (w : Word) : (s.setPc w).dt = s.dt := rfl
@[simp] theorem State.setPc_st (w : Word) : (s.setPc w).st = s.st := rfl
@[simp] theorem State.setPc_paused (w : Word) : (s.setPc w).paused = s.paused := rfl
@[simp] theorem State.setPc_pending (w : Word) : (s.setPc w).pending = s.pending := rfl
@[simp] theorem State.setPc_mem (w : Word) : (s.setPc w).mem = s.mem := rfl
@[simp] theorem State.setPc_display (w : Word) : (s.setPc w).display = s.display := rfl
@[simp] theorem State.setPc_keys (w : Word) : (s.setPc w).keys = s.keys := rfl
@[simp] theorem State.setPc_events (w : Word) : (s.setPc w).events = s.events := rfl
@[simp] theorem State.setPc_draws (w : Word) : (s.setPc w).draws = s.draws := rfl
@[simp] theorem State.setPc_cfg (w : Word) : (s.setPc w).cfg = s.cfg := rfl
@[simp] theorem State.setPc_reg (w : Word) (q : RegIx) : (s.setPc w).reg q = s.reg q := rfl
@[simp] theorem State.setPc_cell (w : Word) (addr : Nat) : (s.setPc w).cell addr = s.cell addr := rfl
@[simp] theorem State.setPc_pixel (w : Word) (px py : Nat) : (s.setPc w).pixel px py = s.pixel px py := rfl
@[simp] theorem State.setPc_isKeyDown (w : Word) (j : KeyCode) : (s.setPc w).isKeyDown j = s.isKeyDown j := rfl

/-! ### advancePc -/

@[simp] theorem State.advancePc_v : (s.advancePc).v = s.v := rfl
@[simp] theorem State.advancePc_i : (s.advancePc).i = s.i := rfl
@[simp] theorem State.advancePc_pc : (s.advancePc).pc = s.pc + 2 := rfl
@[simp] theorem State.advancePc_stack : (s.advancePc).stack = s.stack := rfl
@[simp] theorem State.advancePc_dt : (s.advancePc).dt = s.dt := rfl
@[simp] theorem State.advancePc_st : (s.advancePc).st = s.st := rfl
@[simp] theorem State.advancePc_paused : (s.advancePc).paused = s.paused := rfl
@[simp] theorem State.advancePc_pending : (s.advancePc).pending = s.pending := rfl
@[simp] theorem State.advancePc_mem : (s.advancePc).mem = s.mem := rfl
@[simp] theorem State.advancePc_display : (s.advancePc).display = s.display := rfl
@[simp] theorem State.advancePc_keys : (s.advancePc).keys = s.keys := rfl
@[simp] theorem State.advancePc_events : (s.advancePc).events = s.events := rfl
@[simp] theorem State.advancePc_draws : (s.advancePc).draws = s.draws := rfl
@[simp] theorem State.advancePc_cfg : (s.advancePc).cfg = s.cfg := rfl
@[simp] theorem State.advancePc_reg (q : RegIx) : (s.advancePc).reg q = s.reg q := rfl
@[simp] theorem State.advancePc_cell (addr : Nat) : (s.advancePc).cell addr = s.cell addr := rfl
@[simp] theorem State.advancePc_pixel (px py : Nat) : (s.advancePc).pixel px py = s.pixel px py := rfl
@[simp] theorem State.advancePc_isKeyDown (j : KeyCode) : (s.advancePc).isKeyDown j = s.isKeyDown j := rfl

/-! ### setDT -/

@[simp] theorem State.setDT_v (b : Byte) : (s.setDT b).v = s.v := rfl
@[simp] theorem State.setDT_i (b : Byte) : (s.setDT b).i = s.i := rfl
@[simp] theorem State.setDT_pc (b : Byte) : (s.setDT b).pc = s.pc := rfl
@[simp] theorem State.setDT_stack (b : Byte) : (s.setDT b).stack = s.stack := rfl
@[simp] theorem State.setDT_dt (b : Byte) : (s.setDT b).dt = b := rfl
@[simp] theorem State.setDT_st (b : Byte) : (s.setDT b).st = s.st := rfl
@[simp] theorem State.setDT_paused (b : Byte) : (s.setDT b).paused = s.paused := rfl
@[simp] theorem State.setDT_pending (b : Byte) : (s.setDT b).pending = s.pending := rfl
@[simp] theorem State.setDT_mem (b : Byte) : (s.setDT b).mem = s.mem := rfl
@[simp] theorem State.setDT_display (b : Byte) : (s.setDT b).display = s.display := rfl
@[simp] theorem State.setDT_keys (b : Byte) : (s.setDT b).keys = s.keys := rfl
@[simp] theorem State.setDT_events (b : Byte) : (s.setDT b).events = s.events := rfl
@[simp] theorem State.setDT_draws (b : Byte) : (s.setDT b).draws = s.draws := rfl
@[simp] theorem State.setDT_cfg (b : Byte) : (s.setDT b).cfg = s.cfg := rfl
@[simp] theorem State.setDT_reg (b : Byte) (q : RegIx) : (s.setDT b).reg q = s.reg q := rfl
@[simp] theorem State.setDT_cell (b : Byte) (addr : Nat) : (s.setDT b).cell addr = s.cell addr := rfl
@[simp] theorem State.setDT_pixel (b : Byte) (px py : Nat) : (s.setDT b).pixel px py = s.pixel px py := rfl
@[simp] theorem State.setDT_isKeyDown (b : Byte) (j : KeyCode) : (s.setDT b).isKeyDown j = s.isKeyDown j := rfl

/-! ### setST -/

@[simp] theorem State.setST_v (b : Byte) : (s.setST b).v = s.v := rfl
@[simp] theorem State.setST_i (b : Byte) : (s.setST b).i = s.i := rfl
@[simp] theorem State.setST_pc (b : Byte) : (s.setST b).pc = s.pc := rfl
@[simp] theorem State.setST_stack (b : Byte) : (s.setST b).stack = s.stack := rfl
@[simp] theorem State.setST_dt (b : Byte) : (s.setST b).dt = s.dt := rfl
@[simp] theorem State.setST_st (b : Byte) : (s.setST b).st = b := rfl
@[simp] theorem State.setST_paused (b : Byte) : (s.setST b).paused = s.paused := rfl
@[simp] theorem State.setST_pending (b : Byte) : (s.setST b).pending = s.pending := rfl
@[simp] theorem State.setST_mem (b : Byte) : (s.setST b).mem = s.mem := rfl
@[simp] theorem State.setST_display (b : Byte) : (s.setST b).display = s.display := rfl
@[simp] theorem State.setST_keys (b : Byte) : (s.setST b).keys = s.keys := rfl
@[simp] theorem State.setST_events (b : Byte) : (s.setST b).events = s.events := rfl
@[simp] theorem State.setST_draws (b : Byte) : (s.setST b).draws = s.draws := rfl
@[simp] theorem State.setST_cfg (b : Byte) : (s.setST b).cfg = s.cfg := rfl
@[simp] theorem State.setST_reg (b : Byte) (q : RegIx) : (s.setST b).reg q = s.reg q := rfl
@[simp] theorem State.setST_cell (b : Byte) (addr : Nat) : (s.setST b).cell addr = s.cell addr := rfl
@[simp] theorem State.setST_pixel (b : Byte) (px py : Nat) : (s.setST b).pixel px py = s.pixel px py := rfl
@[simp] theorem State.setST_isKeyDown (b : Byte) (j : KeyCode) : (s.setST b).isKeyDown j = s.isKeyDown j := rfl

/-! ### awaitKey -/

@[simp] theorem State.awaitKey_v (r : RegIx) : (s.awaitKey r).v = s.v := rfl
@[simp] theorem State.awaitKey_i (r : RegIx) : (s.awaitKey r).i = s.i := rfl
@[simp] theorem State.awaitKey_pc (r : RegIx) : (s.awaitKey r).pc = s.pc := rfl
@[simp] theorem State.awaitKey_stack (r : RegIx) : (s.awaitKey r).stack = s.stack := rfl
@[simp] theorem State.awaitKey_dt (r : RegIx) : (s.awaitKey r).dt = s.dt := rfl
@[simp] theorem State.awaitKey_st (r : RegIx) : (s.awaitKey r).st = s.st := rfl
@[simp] theorem State.awaitKey_paused (r : RegIx) : (s.awaitKey r).paused = true := rfl
@[simp] theorem State.awaitKey_pending (r : RegIx) : (s.awaitKey r).pending = r := rfl
@[simp] theorem State.awaitKey_mem (r : RegIx) : (s.awaitKey r).mem = s.mem := rfl
@[simp] theorem State.awaitKey_display (r : RegIx) : (s.awaitKey r).display = s.display := rfl
@[simp] theorem State.awaitKey_keys (r : RegIx) : (s.awaitKey r).keys = s.keys := rfl
@[simp] theorem State.awaitKey_events (r : RegIx) : (s.awaitKey r).events = s.events := rfl
@[simp] theorem State.awaitKey_draws (r : RegIx) : (s.awaitKey r).draws = s.draws := rfl
@[simp] theorem State.awaitKey_cfg (r : RegIx) : (s.awaitKey r).cfg = s.cfg := rfl
@[simp] theorem State.awaitKey_reg (r : RegIx) (q : RegIx) : (s.awaitKey r).reg q = s.reg q := rfl
@[simp] theorem State.awaitKey_cell (r : RegIx) (addr : Nat) : (s.awaitKey r).cell addr = s.cell addr := rfl
@[simp] theorem State.awaitKey_pixel (r : RegIx) (px py : Nat) : (s.awaitKey r).pixel px py = s.pixel px py := rfl
@[simp] theorem State.awaitKey_isKeyDown (r : RegIx) (j : KeyCode) : (s.awaitKey r).isKeyDown j = s.isKeyDown j := rfl

/-! ### emit -/

@[simp] theorem State.emit_v (e : Event) : (s.emit e).v = s.v := rfl
@[simp] theorem State.emit_i (e : Event) : (s.emit e).i = s.i := rfl
@[simp] theorem State.emit_pc (e : Event) : (s.emit e).pc = s.pc := rfl
@[simp] theorem State.emit_stack (e : Event) : (s.emit e).stack = s.stack := rfl
@[simp] theorem State.emit_dt (e : Event) : (s.emit e).dt = s.dt := rfl
@[simp] theorem State.emit_st (e : Event) : (s.emit e).st = s.st := rfl
@[simp] theorem State.emit_paused (e : Event) : (s.emit e).paused = s.paused := rfl
@[simp] theorem State.emit_pending (e : Event) : (s.emit e).pending = s.pending := rfl
@[simp] theorem State.emit_mem (e : Event) : (s.emit e).mem = s.mem := rfl
@[simp] theorem State.emit_display (e : Event) : (s.emit e).display = s.display := rfl
@[simp] theorem State.emit_keys (e : Event) : (s.emit e).keys = s.keys := rfl
@[simp] theorem State.emit_events (e : Event) : (s.emit e).events = s.events ++ [e] := rfl
@[simp] theorem State.emit_draws (e : Event) : (s.emit e).draws = s.draws := rfl
@[simp] theorem State.emit_cfg (e : Event) : (s.emit e).cfg = s.cfg := rfl
@[simp] theorem State.emit_reg (e : Event) (q : RegIx) : (s.emit e).reg q = s.reg q := rfl
@[simp] theorem State.emit_cell (e : Event) (addr : Nat) : (s.emit e).cell addr = s.cell addr := rfl
@[simp] theorem State.emit_pixel (e : Event) (px py : Nat) : (s.emit e).pixel px py = s.pixel px py := rfl
@[simp] theorem State.emit_isKeyDown (e : Event) (j : KeyCode) : (s.emit e).isKeyDown j = s.isKeyDown j := rfl

/-! ### unknownOpcode -/

@[simp] theorem State.unknownOpcode_v (w : Word) : (s.unknownOpcode w).v = s.v := rfl
@[simp] theorem State.unknownOpcode_i (w : Word) : (s.unknownOpcode w).i = s.i := rfl
@[simp] theorem State.unknownOpcode_pc (w : Word) : (s.unknownOpcode w).pc = s.pc := rfl
@[simp] theorem State.unknownOpcode_stack (w : Word) : (s.unknownOpcode w).stack = s.stack := rfl
@[simp] theorem State.unknownOpcode_dt (w : Word) : (s.unknownOpcode w).dt = s.dt := rfl
@[simp] theorem State.unknownOpcode_st (w : Word) : (s.unknownOpcode w).st = s.st := rfl
@[simp] theorem State.unknownOpcode_paused (w : Word) : (s.unknownOpcode w).paused = s.paused := rfl
@[simp] theorem State.unknownOpcode_pending (w : Word) : (s.unknownOpcode w).pending = s.pending := rfl
@[simp] theorem State.unknownOpcode_mem (w : Word) : (s.unknownOpcode w).mem = s.mem := rfl
@[simp] theorem State.unknownOpcode_display (w : Word) : (s.unknownOpcode w).display = s.display := rfl
@[simp] theorem State.unknownOpcode_keys (w : Word) : (s.unknownOpcode w).keys = s.keys := rfl
@[simp] theorem State.unknownOpcode_events (w : Word) : (s.unknownOpcode w).events = s.events ++ [.unknownOpcode w s.instrAddr] := rfl
@[simp] theorem State.unknownOpcode_draws (w : Word) : (s.unknownOpcode w).draws = s.draws := rfl
@[simp] theorem State.unknownOpcode_cfg (w : Word) : (s.unknownOpcode w).cfg = s.cfg := rfl
@[simp] theorem State.unknownOpcode_reg (w : Word) (q : RegIx) : (s.unknownOpcode w).reg q = s.reg q := rfl
@[simp] theorem State.unknownOpcode_cell (w : Word) (addr : Nat) : (s.unknownOpcode w).cell addr = s.cell addr := rfl
@[simp] theorem State.unknownOpcode_pixel (w : Word) (px py : Nat) : (s.unknownOpcode w).pixel px py = s.pixel px py := rfl
@[simp] theorem State.unknownOpcode_isKeyDown (w : Word) (j : KeyCode) : (s.unknownOpcode w).isKeyDown j = s.isKeyDown j := rfl

/-! ### clearDisplay -/

@[simp] theorem State.clearDisplay_v : (s.clearDisplay).v = s.v := rfl
@[simp] theorem State.clearDisplay_i : (s.clearDisplay).i = s.i := rfl
@[simp] theorem State.clearDisplay_pc : (s.clearDisplay).pc = s.pc := rfl
@[simp] theorem State.clearDisplay_stack : (s.clearDisplay).stack = s.stack := rfl
@[simp] theorem State.clearDisplay_dt : (s.clearDisplay).dt = s.dt := rfl
@[simp] theorem State.clearDisplay_st : (s.clearDisplay).st = s.st := rfl
@[simp] theorem State.clearDisplay_paused : (s.clearDisplay).paused = s.paused := rfl
@[simp] theorem State.clearDisplay_pending : (s.clearDisplay).pending = s.pending := rfl
@[simp] theorem State.clearDisplay_mem : (s.clearDisplay).mem = s.mem := rfl
@[simp] theorem State.clearDisplay_display : (s.clearDisplay).display = clearBitmap s.cfg.displayW s.cfg.displayH := rfl
@[simp] theorem State.clearDisplay_keys : (s.clearDisplay).keys = s.keys := rfl
@[simp] theorem State.clearDisplay_events : (s.clearDisplay).events = s.events ++ [.displayClear] := rfl
@[simp] theorem State.clearDisplay_draws : (s.clearDisplay).draws = s.draws := rfl
@[simp] theorem State.clearDisplay_cfg : (s.clearDisplay).cfg = s.cfg := rfl
@[simp] theorem State.clearDisplay_reg (q : RegIx) : (s.clearDisplay).reg q = s.reg q := rfl
@[simp] theorem State.clearDisplay_cell (addr : Nat) : (s.clearDisplay).cell addr = s.cell addr := rfl
@[simp] theorem State.clearDisplay_isKeyDown (j : KeyCode) : (s.clearDisplay).isKeyDown j = s.isKeyDown j := rfl

/-! ### togglePixel -/

@[simp] theorem State.togglePixel_v (x y : Nat) : (s.togglePixel x y).v = s.v := rfl
@[simp] theorem State.togglePixel_i (x y : Nat) : (s.togglePixel x y).i = s.i := rfl
@[simp] theorem State.togglePixel_pc (x y : Nat) : (s.togglePixel x y).pc = s.pc := rfl
@[simp] theorem State.togglePixel_stack (x y : Nat) : (s.togglePixel x y).stack = s.stack := rfl
@[simp] theorem State.togglePixel_dt (x y : Nat) : (s.togglePixel x y).dt = s.dt := rfl
@[simp] theorem State.togglePixel_st (x y : Nat) : (s.togglePixel x y).st = s.st := rfl
@[simp] theorem State.togglePixel_paused (x y : Nat) : (s.togglePixel x y).paused = s.paused := rfl
@[simp] theorem State.togglePixel_pending (x y : Nat) : (s.togglePixel x y).pending = s.pending := rfl
@[simp] theorem State.togglePixel_mem (x y : Nat) : (s.togglePixel x y).mem = s.mem := rfl
@[simp] theorem State.togglePixel_display (x y : Nat) : (s.togglePixel x y).display = s.display.modify y fun row => row.modify x (!·) := rfl
@[simp] theorem State.togglePixel_keys (x y : Nat) : (s.togglePixel x y).keys = s.keys := rfl
@[simp] theorem State.togglePixel_events (x y : Nat) : (s.togglePixel x y).events = s.events ++ [.displayToggle x y] := rfl
@[simp] theorem State.togglePixel_draws (x y : Nat) : (s.togglePixel x y).draws = s.draws := rfl
@[simp] theorem State.togglePixel_cfg (x y : Nat) : (s.togglePixel x y).cfg = s.cfg := rfl
@[simp] theorem State.togglePixel_reg (x y : Nat) (q : RegIx) : (s.togglePixel x y).reg q = s.reg q := rfl
@[simp] theorem State.togglePixel_cell (x y : Nat) (addr : Nat) : (s.togglePixel x y).cell addr = s.cell addr := rfl
@[simp] theorem State.togglePixel_isKeyDown (x y : Nat) (j : KeyCode) : (s.togglePixel x y).isKeyDown j = s.isKeyDown j := rfl

/-! ### setKey -/

@[simp] theorem State.setKey_v (k : KeyCode) (down : Bool) : (s.setKey k down).v = s.v := rfl
@[simp] theorem State.setKey_i (k : KeyCode) (down : Bool) : (s.setKey k down).i = s.i := rfl
@[simp] theorem State.setKey_pc (k : KeyCode) (down : Bool) : (s.setKey k down).pc = s.pc := rfl
@[simp] theorem State.setKey_stack (k : KeyCode) (down : Bool) : (s.setKey k down).stack = s.stack := rfl
@[simp] theorem State.setKey_dt (k : KeyCode) (down : Bool) : (s.setKey k down).dt = s.dt := rfl
@[simp] theorem State.setKey_st (k : KeyCode) (down : Bool) : (s.setKey k down).st = s.st := rfl
@[simp] theorem State.setKey_paused (k : KeyCode) (down : Bool) : (s.setKey k down).paused = s.paused := rfl
@[simp] theorem State.setKey_pending (k : KeyCode) (down : Bool) : (s.setKey k down).pending = s.pending := rfl
@[simp] theorem State.setKey_mem (k : KeyCode) (down : Bool) : (s.setKey k down).mem = s.mem := rfl
@[simp] theorem State.setKey_display (k : KeyCode) (down : Bool) : (s.setKey k down).display = s.display := rfl
@[simp] theorem State.setKey_keys (k : KeyCode) (down : Bool) : (s.setKey k down).keys = s.keys.set k.toNat down k.isLt := rfl
@[simp] theorem State.setKey_events (k : KeyCode) (down : Bool) : (s.setKey k down).events = s.events := rfl
@[simp] theorem State.setKey_draws (k : KeyCode) (down : Bool) : (s.setKey k down).draws = s.draws := rfl
@[simp] theorem State.setKey_cfg (k : KeyCode) (down : Bool) : (s.setKey k down).cfg = s.cfg := rfl
@[simp] theorem State.setKey_reg (k : KeyCode) (down : Bool) (q : RegIx) : (s.setKey k down).reg q = s.reg q := rfl
@[simp] theorem State.setKey_cell (k : KeyCode) (down : Bool) (addr : Nat) : (s.setKey k down).cell addr = s.cell addr := rfl
@[simp] theorem State.setKey_pixel (k : KeyCode) (down : Bool) (px py : Nat) : (s.setKey k down).pixel px py = s.pixel px py := rfl

/-! ### consumeDraw -/

@[simp] theorem State.consumeDraw_v : (s.consumeDraw).v = s.v := rfl
@[simp] theorem State.consumeDraw_i : (s.consumeDraw).i = s.i := rfl
@[simp] theorem State.consumeDraw_pc : (s.consumeDraw).pc = s.pc := rfl
@[simp] theorem State.consumeDraw_stack : (s.consumeDraw).stack = s.stack := rfl
@[simp] theorem State.consumeDraw_dt : (s.consumeDraw).dt = s.dt := rfl
@[simp] theorem State.consumeDraw_st : (s.consumeDraw).st = s.st := rfl
@[simp] theorem State.consumeDraw_paused : (s.consumeDraw).paused = s.paused := rfl
@[simp] theorem State.consumeDraw_pending : (s.consumeDraw).pending = s.pending := rfl
@[simp] theorem State.consumeDraw_mem : (s.consumeDraw).mem = s.mem := rfl
@[simp] theorem State.consumeDraw_display : (s.consumeDraw).display = s.display := rfl
@[simp] theorem State.consumeDraw_keys : (s.consumeDraw).keys = s.keys := rfl
@[simp] theorem State.consumeDraw_events : (s.consumeDraw).events = s.events := rfl
@[simp] theorem State.consumeDraw_draws : (s.consumeDraw).draws = s.draws + 1 := rfl
@[simp] theorem State.consumeDraw_cfg : (s.consumeDraw).cfg = s.cfg := rfl
@[simp] theorem State.consumeDraw_reg (q : RegIx) : (s.consumeDraw).reg q = s.reg q := rfl
@[simp] theorem State.consumeDraw_cell (addr : Nat) : (s.consumeDraw).cell addr = s.cell addr := rfl
@[simp] theorem State.consumeDraw_pixel (px py : Nat) : (s.consumeDraw).pixel px py = s.pixel px py := rfl
@[simp] theorem State.consumeDraw_isKeyDown (j : KeyCode) : (s.consumeDraw).isKeyDown j = s.isKeyDown j := rfl

end Sys2Proof.Machine
end

