-- ==== Sys2Proof/Laws/Display.lean ====
section
/-! SUPPORT. The display: what a toggle does to a pixel, and that every display operation keeps the bitmap's size. -/

namespace Sys2Proof.Machine

variable (s : State)

/-- Every pixel is off after a clear (60_exceptions.md R253). -/
theorem State.clearDisplay_pixel (px py : Nat) : s.clearDisplay.pixel px py = false := by
  simp only [State.pixel, State.clearDisplay_display, clearBitmap, List.getD_eq_getElem?_getD, List.getElem?_replicate]
  split_ifs <;> simp [List.getElem?_replicate]
  split_ifs <;> rfl

/-- A clear leaves a bitmap of the display's size. -/
theorem State.clearDisplay_fits : s.clearDisplay.displayFits := by
  refine ⟨by simp [clearBitmap], fun row hrow => ?_⟩
  simp only [State.clearDisplay_display, clearBitmap, List.mem_replicate] at hrow
  simp [hrow.2]

/-- A toggle inverts its pixel and no other (60_exceptions.md R254). -/
theorem State.togglePixel_pixel (hs : s.displayFits) {px py : Nat} (hx : px < s.cfg.displayW)
    (hy : py < s.cfg.displayH) (qx qy : Nat) :
    (s.togglePixel px py).pixel qx qy = if qx = px ∧ qy = py then !s.pixel px py else s.pixel qx qy := by
  obtain ⟨rows, columns⟩ := hs
  have hrow : py < s.display.length := by omega
  have hcol : px < (s.display[py]).length := by rw [columns _ (List.getElem_mem hrow)]; exact hx
  simp only [State.pixel, State.togglePixel_display, List.getD_eq_getElem?_getD, List.getElem?_modify]
  by_cases hq : qy = py
  · subst hq
    rw [List.getElem?_eq_getElem hrow]
    by_cases hp : qx = px
    · subst hp; simp [List.getElem?_eq_getElem hcol]
    · simp [hp, Ne.symm hp]
  · simp [hq, Ne.symm hq]

/-- A toggle keeps the bitmap's size. -/
theorem State.togglePixel_fits (hs : s.displayFits) (px py : Nat) : (s.togglePixel px py).displayFits := by
  obtain ⟨rows, columns⟩ := hs
  refine ⟨by simpa using rows, fun row hrow => ?_⟩
  simp only [State.togglePixel_display] at hrow
  obtain ⟨k, hk, rfl⟩ := List.getElem_of_mem hrow
  rw [List.getElem_modify]
  split_ifs <;> simp [columns _ (List.getElem_mem _)]

/-- The toggles of a sprite write the bitmap and the events only. -/
theorem State.toggleAll_frame (pixels : List (Nat × Nat)) :
    (s.toggleAll pixels).1 =
      { s with
        display := (s.toggleAll pixels).1.display
        events := s.events ++ pixels.map fun p => .displayToggle p.1 p.2 } := by
  induction pixels generalizing s with
  | nil => simp [State.toggleAll]
  | cons p ps ih =>
    have h := ih (s.togglePixel p.1 p.2)
    simp only [State.toggleAll]
    rw [h]
    simp

/-- The toggles of a sprite keep the bitmap's size. -/
theorem State.toggleAll_fits (hs : s.displayFits) (pixels : List (Nat × Nat)) :
    (s.toggleAll pixels).1.displayFits := by
  induction pixels generalizing s with
  | nil => exact hs
  | cons p ps ih => exact ih _ (s.togglePixel_fits hs p.1 p.2)

/-- A pixel no request names is left as it was. -/
theorem State.toggleAll_pixel_of_notMem (hs : s.displayFits) {pixels : List (Nat × Nat)}
    (hp : ∀ p ∈ pixels, p.1 < s.cfg.displayW ∧ p.2 < s.cfg.displayH) {qx qy : Nat} (hq : (qx, qy) ∉ pixels) :
    (s.toggleAll pixels).1.pixel qx qy = s.pixel qx qy := by
  induction pixels generalizing s with
  | nil => rfl
  | cons p ps ih =>
    obtain ⟨hx, hy⟩ := hp p List.mem_cons_self
    have hne : ¬ (qx = p.1 ∧ qy = p.2) := fun e => hq (by rw [e.1, e.2]; exact List.mem_cons_self)
    have rest := ih (s.togglePixel p.1 p.2) (s.togglePixel_fits hs _ _)
      (fun q hmem => hp q (List.mem_cons_of_mem _ hmem)) fun hmem => hq (List.mem_cons_of_mem _ hmem)
    rw [s.togglePixel_pixel hs hx hy, if_neg hne] at rest
    exact rest

/-- Every sprite pixel is a pixel of the display (60_exceptions.md R254: "coordinates already wrapped into range"). -/
theorem spritePixels_inRange {cfg : Config} (hw : 0 < cfg.displayW) (hh : 0 < cfg.displayH) (vx vy r : Nat)
    (rows : List Byte) : ∀ p ∈ spritePixels cfg vx vy r rows, p.1 < cfg.displayW ∧ p.2 < cfg.displayH := by
  induction rows generalizing r with
  | nil => simp [spritePixels]
  | cons b bs ih =>
    intro p hp
    rcases List.mem_append.mp hp with hp | hp
    · obtain ⟨c, -, rfl⟩ := List.mem_map.mp hp
      exact ⟨Nat.mod_lt _ hw, Nat.mod_lt _ hh⟩
    · exact ih (r + 1) p hp

end Sys2Proof.Machine
end

