-- ==== Sys2Proof/Laws/Ops.lean ====
section
/-! SUPPORT. For each shared operation, once, everything it can do. -/

namespace Sys2Proof.Machine

variable (s : State)

/-! ### General registers -/

/-- A register read after a register write (10_state.md R21: no aliases). -/
theorem State.setReg_reg (r q : RegIx) (b : Byte) : (s.setReg r b).reg q = if q = r then b else s.reg q := by
  simp only [State.reg, State.setReg, Vector.getElem_set, BitVec.toNat_inj, eq_comm (a := q)]

@[simp] theorem State.setReg_reg_self (r : RegIx) (b : Byte) : (s.setReg r b).reg r = b := by
  simp [State.setReg_reg]

theorem State.setReg_reg_ne {r q : RegIx} (b : Byte) (h : q ≠ r) : (s.setReg r b).reg q = s.reg q := by
  simp [State.setReg_reg, h]

theorem State.setFlag_reg (q : RegIx) (b : Byte) : (s.setFlag b).reg q = if q = flagReg then b else s.reg q :=
  s.setReg_reg flagReg q b

/-- Two states agree on `v` exactly when every register reads alike. -/
theorem State.v_eq_of_reg {s t : State} (h : ∀ r, t.reg r = s.reg r) : t.v = s.v := by
  refine Vector.ext fun k hk => ?_
  simpa [State.reg, Nat.mod_eq_of_lt hk] using h (BitVec.ofNat 4 k)

/-- `setRegs` writes `V[k], V[k+1], ..` from the bytes in turn (43_index_memory.md R196). -/
theorem State.setRegs_reg (bytes : List Byte) (k : Nat) (q : RegIx) (h : k + bytes.length ≤ 16) :
    (s.setRegs k bytes).reg q = if k ≤ q.toNat then bytes.getD (q.toNat - k) (s.reg q) else s.reg q := by
  induction bytes generalizing s k with
  | nil => simp [State.setRegs]
  | cons b bs ih =>
    simp only [List.length_cons] at h
    have hk : (BitVec.ofNat 4 k).toNat = k := by simp; omega
    have hq : q = BitVec.ofNat 4 k ↔ q.toNat = k := by rw [← BitVec.toNat_inj, hk]
    rw [State.setRegs, ih _ _ (by omega), State.setReg_reg, if_congr hq rfl rfl]
    rcases Nat.lt_trichotomy q.toNat k with hlt | heq | hgt
    · rw [if_neg (by omega), if_neg (by omega), if_neg (by omega)]
    · rw [if_neg (by omega), if_pos heq, if_pos (by omega), heq, Nat.sub_self, List.getD_cons_zero]
    · obtain ⟨d, hd⟩ := Nat.exists_eq_add_of_lt hgt
      rw [if_pos (by omega), if_neg (by omega), if_pos (by omega),
        show q.toNat - k = (q.toNat - (k + 1)) + 1 by omega, List.getD_cons_succ]

/-- `setRegs` writes registers only. -/
theorem State.setRegs_frame (bytes : List Byte) (k : Nat) :
    s.setRegs k bytes = { s with v := (s.setRegs k bytes).v } := by
  induction bytes generalizing s k with
  | nil => rfl
  | cons b bs ih => rw [State.setRegs, ih]; rfl

/-! ### Program counter and skips -/

theorem State.skipIf_pc (condition : Bool) : (s.skipIf condition).pc = if condition then s.pc + 2 else s.pc := by
  cases condition <;> rfl

/-- A skip writes pc only. -/
theorem State.skipIf_frame (condition : Bool) : s.skipIf condition = { s with pc := (s.skipIf condition).pc } := by
  cases condition <;> rfl

/-! ### The call stack -/

/-- `push` fails exactly on a full stack of finite capacity (10_state.md R27). -/
theorem State.push_eq (w : Word) : s.push w =
    if ∃ c, s.cfg.stackCapacity = some c ∧ c ≤ s.stack.length then .error (.stackOverflow s.instrAddr)
    else .ok { s with stack := s.stack ++ [w] } := by
  unfold State.push
  cases h : s.cfg.stackCapacity <;> simp

/-- `pop` on the empty stack is the fault (10_state.md R27). -/
theorem State.pop_nil (h : s.stack = []) : s.pop = .error (.stackUnderflow s.instrAddr) := by
  simp [State.pop, h]

/-- `pop` on a stack with top `w` (10_state.md R27). -/
theorem State.pop_concat {ws : List Word} {w : Word} (h : s.stack = ws ++ [w]) :
    s.pop = .ok ({ s with stack := ws }, w) := by
  simp [State.pop, h]

/-! ### The bounds check -/

theorem boundsCheck_ok {a : Word} {addr n : Nat} (h : addr + n - 1 < memSize) : boundsCheck a addr n = .ok () := by
  simp [boundsCheck, Nat.not_le.mpr h]

theorem boundsCheck_error {a : Word} {addr n : Nat} (h : memSize ≤ addr + n - 1) :
    boundsCheck a addr n = .error (.memoryOutOfBounds a (max addr memSize)) := by
  simp [boundsCheck, h]

theorem State.memRead_ok {a : Word} {addr : Nat} (h : addr < memSize) : s.memRead a addr = .ok (s.cell addr) := by
  simp [State.memRead, boundsCheck_ok (a := a) (addr := addr) (n := 1) (by omega)]

theorem State.memRead_error {a : Word} {addr : Nat} (h : memSize ≤ addr) :
    s.memRead a addr = .error (.memoryOutOfBounds a addr) := by
  simp [State.memRead, boundsCheck_error (a := a) (addr := addr) (n := 1) (by omega), Nat.max_eq_left h]

theorem State.memWrite_ok {a : Word} {addr : Nat} {b : Byte} (h : addr < memSize) :
    s.memWrite a addr b = .ok { s with mem := Memory.write s.cfg.font s.mem addr b } := by
  simp [State.memWrite, boundsCheck_ok (a := a) (addr := addr) (n := 1) (by omega)]

theorem State.memWrite_error {a : Word} {addr : Nat} {b : Byte} (h : memSize ≤ addr) :
    s.memWrite a addr b = .error (.memoryOutOfBounds a addr) := by
  simp [State.memWrite, boundsCheck_error (a := a) (addr := addr) (n := 1) (by omega), Nat.max_eq_left h]

/-- The fetch (40_cycle.md R122): the opcode where both cells exist, else the fault. -/
theorem State.fetchOpcode_eq : s.fetchOpcode =
    if s.pc.toNat + 1 < memSize then .ok (opcodeOf (s.cell s.pc.toNat) (s.cell (s.pc.toNat + 1)))
    else .error (.memoryOutOfBounds s.pc (max s.pc.toNat memSize)) := by
  unfold State.fetchOpcode
  split_ifs with h
  · rw [boundsCheck_ok (by omega)]
  · rw [boundsCheck_error (by omega)]

/-! ### Sequences of cells -/

/-- Reads in range answer the cells, lowest address first. -/
theorem State.readCells_ok {a : Word} {addr n : Nat} (h : addr + n ≤ memSize) :
    s.readCells a addr n = .ok ((List.range n).map fun k => s.cell (addr + k)) := by
  induction n generalizing addr with
  | zero => rfl
  | succ n ih =>
    rw [State.readCells, s.memRead_ok (by omega), ih (by omega), List.range_succ_eq_map]
    simp [Function.comp_def, Nat.add_assoc, Nat.add_comm 1]

/-- Reads that leave memory fault with the lowest offending address (60_exceptions.md R250). -/
theorem State.readCells_error {a : Word} {addr n : Nat} (hn : 0 < n) (h : memSize < addr + n) :
    s.readCells a addr n = .error (.memoryOutOfBounds a (max addr memSize)) := by
  induction n generalizing addr with
  | zero => omega
  | succ n ih =>
    rw [State.readCells]
    by_cases haddr : addr < memSize
    · rw [s.memRead_ok haddr, ih (by omega) (by omega), show max (addr + 1) memSize = max addr memSize by omega]
    · rw [s.memRead_error (by omega), Nat.max_eq_left (by omega)]

/-- The cells after the bytes were stored in turn from `addr`. -/
def Memory.writeAll (font : Font) : List Host.Cell → Nat → List Byte → List Host.Cell
  | cells, _, [] => cells
  | cells, addr, b :: bs => Memory.writeAll font (Memory.write font cells addr b) (addr + 1) bs

/-- Stores in range write memory only. -/
theorem State.storeCells_ok {a : Word} {addr : Nat} {bytes : List Byte} (h : addr + bytes.length ≤ memSize) :
    s.storeCells a addr bytes = .ok { s with mem := Memory.writeAll s.cfg.font s.mem addr bytes } := by
  induction bytes generalizing s addr with
  | nil => rfl
  | cons b bs ih =>
    simp only [List.length_cons] at h
    rw [State.storeCells, s.memWrite_ok (by omega)]
    exact ih _ (by omega)

/-- Stores that leave memory fault with the lowest offending address (60_exceptions.md R250). -/
theorem State.storeCells_error {a : Word} {addr : Nat} {bytes : List Byte} (hn : bytes ≠ [])
    (h : memSize < addr + bytes.length) :
    s.storeCells a addr bytes = .error (.memoryOutOfBounds a (max addr memSize)) := by
  induction bytes generalizing s addr with
  | nil => contradiction
  | cons b bs ih =>
    simp only [List.length_cons] at h
    rw [State.storeCells]
    by_cases haddr : addr < memSize
    · have hbs : bs ≠ [] := by rintro rfl; simp at h; omega
      rw [s.memWrite_ok haddr, show max addr memSize = max (addr + 1) memSize by omega]
      exact ih _ hbs (by omega)
    · rw [s.memWrite_error (by omega), Nat.max_eq_left (by omega)]

/-! ### Keys -/

/-- A key's level after a key event (60_exceptions.md R256). -/
theorem State.setKey_isKeyDown (k j : KeyCode) (down : Bool) :
    (s.setKey k down).isKeyDown j = if j = k then down else s.isKeyDown j := by
  simp only [State.isKeyDown, State.setKey, Vector.getElem_set, BitVec.toNat_inj, eq_comm (a := j)]

/-- The key operand: the code, or the fault (45_keypad_timers.md R221). -/
theorem State.keyOperand_ok {x : RegIx} (h : (s.reg x).toNat ≤ 15) :
    s.keyOperand x = .ok ((s.reg x).setWidth 4) := by
  have e : BitVec.ofNat 4 (s.reg x).toNat = (s.reg x).setWidth 4 := by
    apply BitVec.eq_of_toNat_eq; simp
  simp [State.keyOperand, Nat.not_lt.mpr h, e]

end Sys2Proof.Machine
end

