-- ==== Sys2Proof/Laws/Memory.lean ====
section
/-! SUPPORT. Memory: what a read sees after a write, and that every memory operation keeps the canonical form. -/

namespace Sys2Proof.Machine

variable {font : Font} (cells : List Host.Cell)

@[simp] theorem Memory.read_nil (addr : Nat) : Memory.read font [] addr = unlisted font addr := rfl

/-- Entries of other addresses are passed over. -/
theorem Memory.read_append_of_ne {low : List Host.Cell} {addr : Nat} (h : ∀ c ∈ low, c.1 ≠ addr) :
    Memory.read font (low ++ cells) addr = Memory.read font cells addr := by
  induction low with
  | nil => rfl
  | cons c cs ih =>
    rw [List.cons_append, Memory.read, if_neg (h c List.mem_cons_self)]
    exact ih fun d hd => h d (List.mem_cons_of_mem c hd)

/-- A filter that keeps an address's entries keeps what the address reads as, whatever follows. -/
theorem Memory.read_filter_append {keep : Host.Cell → Bool} {rest : List Host.Cell} {addr : Nat}
    (hkeep : ∀ c : Host.Cell, c.1 = addr → keep c = true) (hrest : Memory.read font rest addr = unlisted font addr) :
    Memory.read font (cells.filter keep ++ rest) addr = Memory.read font cells addr := by
  induction cells with
  | nil => exact hrest
  | cons c cs ih =>
    by_cases hc : c.1 = addr
    · rw [List.filter_cons_of_pos (hkeep c hc), List.cons_append, Memory.read, Memory.read, if_pos hc, if_pos hc]
    · rw [Memory.read, if_neg hc, ← ih]
      cases hk : keep c with
      | true => rw [List.filter_cons_of_pos hk, List.cons_append, Memory.read, if_neg hc]
      | false => rw [List.filter_cons_of_neg (by simp [hk])]

theorem Memory.read_entry (addr : Nat) (b : Byte) (rest : List Host.Cell)
    (h : Memory.read font rest addr = unlisted font addr) : Memory.read font (Memory.entry font addr b ++ rest) addr = b := by
  unfold Memory.entry
  split_ifs with hb
  · rw [List.nil_append, h, hb]
  · rw [List.cons_append, Memory.read, if_pos rfl]

theorem Memory.entry_addr {addr : Nat} {b : Byte} {c : Host.Cell} (h : c ∈ Memory.entry font addr b) : c.1 = addr := by
  unfold Memory.entry at h
  split_ifs at h <;> simp_all

theorem Memory.read_eq_unlisted {addr : Nat} (h : ∀ c ∈ cells, c.1 ≠ addr) :
    Memory.read font cells addr = unlisted font addr := by
  simpa using Memory.read_append_of_ne (cells := []) h

/-- A read after a write (20_memory.md R67): the byte written, and every other cell as before. -/
theorem Memory.read_write (addr other : Nat) (b : Byte) :
    Memory.read font (Memory.write font cells addr b) other = if other = addr then b else Memory.read font cells other := by
  have low : ∀ c ∈ cells.filter (fun c => c.1 < addr), c.1 < addr := fun c hc => by simpa using (List.mem_filter.mp hc).2
  have high : ∀ c ∈ cells.filter (fun c => addr < c.1), addr < c.1 := fun c hc => by simpa using (List.mem_filter.mp hc).2
  unfold Memory.write
  rw [List.append_assoc]
  rcases Nat.lt_trichotomy other addr with hlt | heq | hgt
  · rw [if_neg (by omega)]
    refine Memory.read_filter_append cells (by simp; omega) (Memory.read_eq_unlisted _ fun c hc => ?_)
    rcases List.mem_append.mp hc with he | hh
    · rw [Memory.entry_addr he]; omega
    · have := high c hh; omega
  · subst heq
    rw [if_pos rfl, Memory.read_append_of_ne _ fun c hc => by have := low c hc; omega]
    exact Memory.read_entry _ _ _ (Memory.read_eq_unlisted _ fun c hc => by have := high c hc; omega)
  · rw [if_neg (by omega), Memory.read_append_of_ne _ fun c hc => by have := low c hc; omega,
      Memory.read_append_of_ne _ fun c hc => by rw [Memory.entry_addr hc]; omega]
    simpa using Memory.read_filter_append cells (rest := []) (keep := fun c => addr < c.1) (by simp; omega) rfl

/-- A write in the address space keeps the canonical form. -/
theorem Memory.write_wf {cells : List Host.Cell} {addr : Nat} (b : Byte) (h : Memory.wf font cells) (haddr : addr < memSize) :
    Memory.wf font (Memory.write font cells addr b) := by
  obtain ⟨sorted, entries⟩ := h
  have low : ∀ c ∈ cells.filter (fun c => c.1 < addr), c.1 < addr := fun c hc => by simpa using (List.mem_filter.mp hc).2
  have high : ∀ c ∈ cells.filter (fun c => addr < c.1), addr < c.1 := fun c hc => by simpa using (List.mem_filter.mp hc).2
  constructor
  · refine List.pairwise_append.mpr ⟨List.pairwise_append.mpr ⟨sorted.filter _, ?_, ?_⟩, sorted.filter _, ?_⟩
    · unfold Memory.entry; split_ifs <;> simp
    · intro c hc d hd
      rw [Memory.entry_addr hd]; exact low c hc
    · intro c hc d hd
      have := high d hd
      rcases List.mem_append.mp hc with hc | hc
      · have := low c hc; omega
      · rw [Memory.entry_addr hc]; exact this
  · intro c hc
    rcases List.mem_append.mp hc with hc | hc
    · rcases List.mem_append.mp hc with hc | hc
      · exact entries c (List.mem_of_mem_filter hc)
      · unfold Memory.entry at hc
        split_ifs at hc with hb
        · simp at hc
        · obtain rfl := List.mem_singleton.mp hc
          exact ⟨haddr, hb⟩
    · exact entries c (List.mem_of_mem_filter hc)

/-- Reset's memory is in the canonical form. -/
theorem Memory.wf_nil : Memory.wf font [] := ⟨List.Pairwise.nil, by simp⟩

/-- Stores in the address space keep the canonical form. -/
theorem Memory.writeAll_wf {cells : List Host.Cell} {addr : Nat} {bytes : List Byte} (h : Memory.wf font cells)
    (hb : addr + bytes.length ≤ memSize) : Memory.wf font (Memory.writeAll font cells addr bytes) := by
  induction bytes generalizing cells addr with
  | nil => exact h
  | cons b bs ih =>
    simp only [List.length_cons] at hb
    exact ih (Memory.write_wf b h (by omega)) (by omega)

/-- A read after the bytes were stored in turn from `addr`: the bytes stored, and every other cell as before. -/
theorem Memory.read_writeAll (addr other : Nat) (bytes : List Byte) :
    Memory.read font (Memory.writeAll font cells addr bytes) other =
      if addr ≤ other then bytes.getD (other - addr) (Memory.read font cells other) else Memory.read font cells other := by
  induction bytes generalizing cells addr with
  | nil => simp [Memory.writeAll]
  | cons b bs ih =>
    rw [Memory.writeAll, ih, Memory.read_write]
    rcases Nat.lt_trichotomy other addr with hlt | heq | hgt
    · rw [if_neg (by omega), if_neg (by omega), if_neg (by omega)]
    · rw [if_neg (by omega), if_pos heq, if_pos (by omega), heq, Nat.sub_self, List.getD_cons_zero]
    · rw [if_pos (by omega), if_neg (by omega), if_pos (by omega),
        show other - addr = (other - (addr + 1)) + 1 by omega, List.getD_cons_succ]

/-- Two canonical memories that read alike everywhere are the same list. -/
theorem Memory.eq_of_read {cells others : List Host.Cell} (h : Memory.wf font cells) (h' : Memory.wf font others)
    (hread : ∀ addr, Memory.read font cells addr = Memory.read font others addr) : cells = others := by
  induction cells generalizing others with
  | nil =>
    cases others with
    | nil => rfl
    | cons d ds =>
      have hd := hread d.1
      rw [Memory.read_nil, Memory.read, if_pos rfl] at hd
      exact absurd hd.symm (h'.2 d List.mem_cons_self).2
  | cons c cs ih =>
    cases others with
    | nil =>
      have hc := hread c.1
      rw [Memory.read_nil, Memory.read, if_pos rfl] at hc
      exact absurd hc (h.2 c List.mem_cons_self).2
    | cons d ds =>
      obtain ⟨hs, he⟩ := h
      obtain ⟨hs', he'⟩ := h'
      rw [List.pairwise_cons] at hs hs'
      have key : c.1 = d.1 := by
        rcases Nat.lt_trichotomy c.1 d.1 with hlt | heq | hgt
        · have hc := hread c.1
          rw [Memory.read, if_pos rfl, Memory.read_eq_unlisted (d :: ds) fun e hmem => by
            rcases List.mem_cons.mp hmem with rfl | hmem
            · omega
            · have := hs'.1 e hmem; omega] at hc
          exact absurd hc (he c List.mem_cons_self).2
        · exact heq
        · have hd := hread d.1
          rw [Memory.read.eq_2 font d.1 d ds, if_pos rfl, Memory.read_eq_unlisted (c :: cs) fun e hmem => by
            rcases List.mem_cons.mp hmem with rfl | hmem
            · omega
            · have := hs.1 e hmem; omega] at hd
          exact absurd hd.symm (he' d List.mem_cons_self).2
      have value : c.2 = d.2 := by
        have hc := hread c.1
        rwa [Memory.read, if_pos rfl, Memory.read, if_pos key.symm] at hc
      have tail : cs = ds := by
        refine ih ⟨hs.2, fun e hmem => he e (List.mem_cons_of_mem c hmem)⟩
          ⟨hs'.2, fun e hmem => he' e (List.mem_cons_of_mem d hmem)⟩ fun addr => ?_
        by_cases haddr : c.1 = addr
        · rw [Memory.read_eq_unlisted cs fun e hmem => by have := hs.1 e hmem; omega,
            Memory.read_eq_unlisted ds fun e hmem => by have := hs'.1 e hmem; omega]
        · have hc := hread addr
          rwa [Memory.read, if_neg haddr, Memory.read, if_neg (key ▸ haddr)] at hc
      rw [Prod.ext key value, tail]

end Sys2Proof.Machine
end

