-- ==== Sys2Proof/Laws/PerInstr.lean ====
section
/-! SUPPORT. The per-instruction family MatchesOpcodeMap: an instruction's encoded word selects the instruction's own row,
and that row stands in the opcode map (30_encoding.md R94). -/

namespace Sys2Proof.Laws.MatchesOpcodeMap

/-- The instruction's row stands in the map, and the instruction's encoded word selects it. -/
def Statement (i : Instr) : Prop := i.row ∈ opcodeMap ∧ i.row.selects (encode i) = true

/-- A mask of four set bits keeps a nibble. -/
theorem and_nibble (u : Nibble) : u &&& 15#4 = u := BitVec.and_allOnes

/-- A mask of eight set bits keeps a byte. -/
theorem and_byte (u : Byte) : u &&& 255#8 = u := BitVec.and_allOnes

/-- Under the mask 0xF000 a word is its family. -/
theorem selects_family (fam : Nibble) (nnn : Addr12) :
    OpcodeRow.selects ⟨0xF000, formatA fam 0⟩ (formatA fam nnn) = true := by
  rw [OpcodeRow.selects, beq_iff_eq, show (0xF000 : Word) = formatA 0xF 0 from rfl, formatA, formatA, formatA,
    BitVec.and_append]
  simp [and_nibble]

/-- Under the mask 0xF0FF a word is its family and its function byte. -/
theorem selects_functionByte (fam x : Nibble) (kk : Byte) :
    OpcodeRow.selects ⟨0xF0FF, formatK fam 0 kk⟩ (formatK fam x kk) = true := by
  rw [OpcodeRow.selects, beq_iff_eq, show (0xF0FF : Word) = formatK 0xF 0 0xFF from rfl, formatK, formatK, formatK,
    BitVec.and_append, BitVec.and_append]
  simp [and_nibble, and_byte]

/-- Under the mask 0xF00F a word is its family and its function nibble. -/
theorem selects_functionNibble (fam x y n : Nibble) :
    OpcodeRow.selects ⟨0xF00F, formatR fam 0 0 n⟩ (formatR fam x y n) = true := by
  rw [OpcodeRow.selects, beq_iff_eq, show (0xF00F : Word) = formatR 0xF 0 0 0xF from rfl, formatR, formatR, formatR,
    BitVec.and_append, BitVec.and_append, BitVec.and_append]
  simp [and_nibble]

theorem cls : Statement (.cls) := ⟨by simp [Instr.row, opcodeMap], by decide⟩
theorem ret : Statement (.ret) := ⟨by simp [Instr.row, opcodeMap], by decide⟩
theorem jp (nnn : Addr12) : Statement (.jp nnn) := ⟨by simp [Instr.row, opcodeMap], selects_family 0x1 nnn⟩
theorem call (nnn : Addr12) : Statement (.call nnn) := ⟨by simp [Instr.row, opcodeMap], selects_family 0x2 nnn⟩
theorem seImm (x : RegIx) (kk : Byte) : Statement (.seImm x kk) := ⟨by simp [Instr.row, opcodeMap], selects_family 0x3 (x ++ kk)⟩
theorem sneImm (x : RegIx) (kk : Byte) : Statement (.sneImm x kk) := ⟨by simp [Instr.row, opcodeMap], selects_family 0x4 (x ++ kk)⟩
theorem sne5 (x y : RegIx) : Statement (.sne5 x y) := ⟨by simp [Instr.row, opcodeMap], selects_functionNibble 0x5 x y 0x0⟩
theorem ldImm (x : RegIx) (kk : Byte) : Statement (.ldImm x kk) := ⟨by simp [Instr.row, opcodeMap], selects_family 0x6 (x ++ kk)⟩
theorem addImm (x : RegIx) (kk : Byte) : Statement (.addImm x kk) := ⟨by simp [Instr.row, opcodeMap], selects_family 0x7 (x ++ kk)⟩
theorem ldReg (x y : RegIx) : Statement (.ldReg x y) := ⟨by simp [Instr.row, opcodeMap], selects_functionNibble 0x8 x y 0x0⟩
theorem orReg (x y : RegIx) : Statement (.orReg x y) := ⟨by simp [Instr.row, opcodeMap], selects_functionNibble 0x8 x y 0x1⟩
theorem andReg (x y : RegIx) : Statement (.andReg x y) := ⟨by simp [Instr.row, opcodeMap], selects_functionNibble 0x8 x y 0x2⟩
theorem xorReg (x y : RegIx) : Statement (.xorReg x y) := ⟨by simp [Instr.row, opcodeMap], selects_functionNibble 0x8 x y 0x3⟩
theorem addReg (x y : RegIx) : Statement (.addReg x y) := ⟨by simp [Instr.row, opcodeMap], selects_functionNibble 0x8 x y 0x4⟩
theorem subReg (x y : RegIx) : Statement (.subReg x y) := ⟨by simp [Instr.row, opcodeMap], selects_functionNibble 0x8 x y 0x5⟩
theorem shr (x y : RegIx) : Statement (.shr x y) := ⟨by simp [Instr.row, opcodeMap], selects_functionNibble 0x8 x y 0x6⟩
theorem subn (x y : RegIx) : Statement (.subn x y) := ⟨by simp [Instr.row, opcodeMap], selects_functionNibble 0x8 x y 0x7⟩
theorem shl (x y : RegIx) : Statement (.shl x y) := ⟨by simp [Instr.row, opcodeMap], selects_functionNibble 0x8 x y 0xE⟩
theorem sneReg (x y : RegIx) : Statement (.sneReg x y) := ⟨by simp [Instr.row, opcodeMap], selects_functionNibble 0x9 x y 0x0⟩
theorem ldI (nnn : Addr12) : Statement (.ldI nnn) := ⟨by simp [Instr.row, opcodeMap], selects_family 0xA nnn⟩
theorem jpV0 (nnn : Addr12) : Statement (.jpV0 nnn) := ⟨by simp [Instr.row, opcodeMap], selects_family 0xB nnn⟩
theorem rnd (x : RegIx) (kk : Byte) : Statement (.rnd x kk) := ⟨by simp [Instr.row, opcodeMap], selects_family 0xC (x ++ kk)⟩
theorem drw (x y : RegIx) (n : Nibble) : Statement (.drw x y n) := ⟨by simp [Instr.row, opcodeMap], selects_family 0xD (x ++ (y ++ n))⟩
theorem skp (x : RegIx) : Statement (.skp x) := ⟨by simp [Instr.row, opcodeMap], selects_functionByte 0xE x 0x9E⟩
theorem sknp (x : RegIx) : Statement (.sknp x) := ⟨by simp [Instr.row, opcodeMap], selects_functionByte 0xE x 0xA1⟩
theorem ldVxDT (x : RegIx) : Statement (.ldVxDT x) := ⟨by simp [Instr.row, opcodeMap], selects_functionByte 0xF x 0x07⟩
theorem ldVxK (x : RegIx) : Statement (.ldVxK x) := ⟨by simp [Instr.row, opcodeMap], selects_functionByte 0xF x 0x0A⟩
theorem ldDTVx (x : RegIx) : Statement (.ldDTVx x) := ⟨by simp [Instr.row, opcodeMap], selects_functionByte 0xF x 0x15⟩
theorem ldSTVx (x : RegIx) : Statement (.ldSTVx x) := ⟨by simp [Instr.row, opcodeMap], selects_functionByte 0xF x 0x18⟩
theorem addI (x : RegIx) : Statement (.addI x) := ⟨by simp [Instr.row, opcodeMap], selects_functionByte 0xF x 0x1E⟩
theorem ldF (x : RegIx) : Statement (.ldF x) := ⟨by simp [Instr.row, opcodeMap], selects_functionByte 0xF x 0x29⟩
theorem ldB (x : RegIx) : Statement (.ldB x) := ⟨by simp [Instr.row, opcodeMap], selects_functionByte 0xF x 0x33⟩
theorem ldMemVx (x : RegIx) : Statement (.ldMemVx x) := ⟨by simp [Instr.row, opcodeMap], selects_functionByte 0xF x 0x55⟩
theorem ldVxMem (x : RegIx) : Statement (.ldVxMem x) := ⟨by simp [Instr.row, opcodeMap], selects_functionByte 0xF x 0x65⟩

end Sys2Proof.Laws.MatchesOpcodeMap
end

