-- ==== Sys2Proof/Laws/Step.lean ====
section
/-! SUPPORT. Once, everything a Step can do, and the inductions over Steps and over host operations. -/

namespace Sys2Proof.Machine

variable {s t : State}

/-- The fetch of a state that can fetch (40_cycle.md R122). -/
theorem State.fetchOpcode_ok (h : s.canFetch) : s.fetchOpcode = .ok s.opcodeAtPc := by
  rw [s.fetchOpcode_eq, if_pos h.2]; rfl

/-- A Step that answers a next state was paused, or executed the decoded instruction, or passed over an unknown
opcode (40_cycle.md R122 to R125). -/
theorem step_cases (h : step s = .next t) :
    (s.paused = true ∧ t = s) ∨
    (s.canFetch ∧ ∃ i, decode s.opcodeAtPc = .ok i ∧ exec i s.advancePc = .next t) ∨
    (s.canFetch ∧ ∃ r, decode s.opcodeAtPc = .error r ∧ t = s.advancePc.unknownOpcode s.opcodeAtPc) := by
  unfold step at h
  split_ifs at h with hp
  · cases h; exact .inl ⟨hp, rfl⟩
  · by_cases hpc : s.pc.toNat + 1 < memSize
    · have hf : s.canFetch := ⟨by simpa using hp, hpc⟩
      rw [State.fetchOpcode_ok hf] at h
      cases hd : decode s.opcodeAtPc with
      | ok i => exact .inr (.inl ⟨hf, i, rfl, by simpa [hd] using h⟩)
      | error r =>
        simp only [hd] at h
        cases h
        exact .inr (.inr ⟨hf, r, rfl, rfl⟩)
    · rw [s.fetchOpcode_eq, if_neg hpc] at h
      cases h

/-- Two operations that end in a next state went through one in between. -/
theorem andThen_cases {first : Result} {second : State → Result} (h : andThen first second = .next t) :
    ∃ u, first = .next u ∧ second u = .next t := by
  cases first with
  | next u => exact ⟨u, rfl, h⟩
  | fault f => cases h
  | refused r => cases h

/-- What every Step keeps, any number of Steps keeps. -/
theorem steps_keeps {P : State → Prop} (hstep : ∀ {s t}, P s → step s = .next t → P t) {n : Nat}
    (hs : P s) (h : steps n s = .next t) : P t := by
  induction n generalizing s with
  | zero => cases h; exact hs
  | succ n ih =>
    obtain ⟨u, hu, h⟩ := andThen_cases h
    exact ih (hstep hs hu) h

/-- A Tick that answers a next state ran its Steps and then let the timers decay (40_cycle.md R126). -/
theorem tick_cases (h : tick s = .next t) : ∃ u, steps s.cfg.stepsPerTick s = .next u ∧ t = u.decayTimers := by
  obtain ⟨u, hu, h⟩ := andThen_cases h
  cases h
  exact ⟨u, hu, rfl⟩

/-- What every host operation keeps, any sequence of them keeps (40_cycle.md R131). -/
theorem performAll_keeps {P : State → Prop} (hop : ∀ {op s t}, P s → perform op s = .next t → P t)
    {ops : List HostOp} (hs : P s) (h : performAll ops s = .next t) : P t := by
  induction ops generalizing s with
  | nil => cases h; exact hs
  | cons op ops ih =>
    obtain ⟨u, hu, h⟩ := andThen_cases h
    exact ih (hop hs hu) h

/-- LoadProgram on a core as Reset produced it: the bytes are stored from 0x200 and nothing else is written, or the
program is too large (40_cycle.md R121). -/
theorem loadProgram_eq (bytes : List Byte) (h : s.atReset) : loadProgram bytes s =
    if programMax < bytes.length then .fault (.programTooLarge bytes.length)
    else .next { s with mem := Memory.writeAll s.cfg.font s.mem programBase bytes } := by
  unfold loadProgram
  rw [if_pos h]
  split_ifs with hlen
  · rfl
  · rw [s.storeCells_ok (by have : programMax = 3584 := rfl; have : programBase = 512 := rfl; have : memSize = 4096 := rfl; omega)]
    rfl

/-- A key event leaves the core as Reset produced it (60_exceptions.md R262). -/
theorem State.setKey_atReset (k : KeyCode) (down : Bool) (h : s.atReset) : (s.setKey k down).atReset := by
  unfold State.atReset at h ⊢
  rw [h]; rfl

/-- The end of a Tick writes the timers only. -/
theorem State.decayTimers_frame (s : State) :
    s.decayTimers = { s with dt := s.decayTimers.dt, st := s.decayTimers.st } := by
  unfold State.decayTimers
  split_ifs <;> rfl

/-- A timer decays by one and stops at 0 (10_state.md R28). -/
theorem decayed_toNat (timer : Byte) : (decayed timer).toNat = timer.toNat - 1 := by
  unfold decayed
  split_ifs with h
  · have := timer.isLt
    rw [BitVec.toNat_sub_of_le (by simp [BitVec.le_def]; omega)]; rfl
  · omega

/-- KeyAccept writes the pending register and the pause flag only (40_cycle.md R128). -/
theorem keyAccept_frame (k : KeyCode) (s : State) :
    keyAccept k s = { s with v := (keyAccept k s).v, paused := false } := by
  unfold keyAccept
  split_ifs with h
  · rfl
  · cases s; simp_all

end Sys2Proof.Machine
end

