-- ==== Sys2Proof/Tests/Slice0.lean ====
section
/-! SUPPORT. Tests. Expected results come from the spec: the ill-formed terms from the bounds of 00_scope.md R5, R6 and
40_cycle.md R121, the words from the patterns of 30_encoding.md R94, the runs from the vectors of 95_test_vectors.md
(named X.. and T-.. in the comments), the witnesses from the rules the statements cite. -/

namespace Sys2Proof.Tests

open Sys2Proof.Machine

/-- The outcome is a next state with the property. -/
def nextHas (o : Result) (p : State → Bool) : Bool :=
  match o with
  | .next s => p s
  | _ => false

/-- The outcome is this fault. -/
def faultIs (o : Result) (f : Fault) : Bool :=
  match o with
  | .fault g => g == f
  | _ => false

/-- The reset state with the opcode `w` at 0x200. -/
def at200 (w : Word) : State := State.reset.withFetchWord 16 w.toNat

/-! ### WellFormed: a term each check refuses -/

theorem test_nibble_refuses_16 : fieldFits 4 16 = false := by decide
theorem test_byte_refuses_256 : fieldFits 8 256 = false := by decide
theorem test_address_refuses_4096 : fieldFits 12 4096 = false := by decide
theorem test_widest_operands_fit : (Instr.drw 15 15 15).wellFormed = true := by decide
theorem test_config_refuses_no_steps : { defaultConfig with stepsPerTick := 0 }.wellFormed = false := by decide
theorem test_config_refuses_narrow_display : { defaultConfig with displayW := 8 }.wellFormed = false := by decide
theorem test_config_refuses_low_display : { defaultConfig with displayH := 15 }.wellFormed = false := by decide
theorem test_default_config_wellFormed : defaultConfig.wellFormed = true := by decide
theorem test_program_of_3585_refused : programFits (List.replicate 3585 0) = false := by
  rw [programFits, List.length_replicate]; decide
theorem test_program_of_3584_fits : programFits (List.replicate 3584 0) = true := by
  rw [programFits, List.length_replicate]; decide

/-! ### Decoding: one word a constructor, bit by bit from the patterns of R94 -/

theorem test_decode_cls : decode 0b0000000011100000 = .ok .cls := by decide
theorem test_decode_ret : decode 0b0000000011101110 = .ok .ret := by decide
theorem test_decode_jp : decode 0b0001001000110100 = .ok (.jp 0x234) := by decide
theorem test_decode_call : decode 0b0010001000001010 = .ok (.call 0x20A) := by decide
theorem test_decode_seImm : decode 0b0011000100000000 = .ok (.seImm 1 0x00) := by decide
theorem test_decode_sneImm : decode 0b0100111100000001 = .ok (.sneImm 15 0x01) := by decide
theorem test_decode_sne5 : decode 0b0101000100100000 = .ok (.sne5 1 2) := by decide
theorem test_decode_ldImm : decode 0b0110000010011101 = .ok (.ldImm 0 0x9D) := by decide
theorem test_decode_addImm : decode 0b0111000111111111 = .ok (.addImm 1 0xFF) := by decide
theorem test_decode_ldReg : decode 0b1000000100100000 = .ok (.ldReg 1 2) := by decide
theorem test_decode_orReg : decode 0b1000000100100001 = .ok (.orReg 1 2) := by decide
theorem test_decode_andReg : decode 0b1000000100100010 = .ok (.andReg 1 2) := by decide
theorem test_decode_xorReg : decode 0b1000000100100011 = .ok (.xorReg 1 2) := by decide
theorem test_decode_addReg : decode 0b1000000000010100 = .ok (.addReg 0 1) := by decide
theorem test_decode_subReg : decode 0b1000000000010101 = .ok (.subReg 0 1) := by decide
theorem test_decode_shr : decode 0b1000101010110110 = .ok (.shr 10 11) := by decide
theorem test_decode_subn : decode 0b1000000000010111 = .ok (.subn 0 1) := by decide
theorem test_decode_shl : decode 0b1000000100101110 = .ok (.shl 1 2) := by decide
theorem test_decode_sneReg : decode 0b1001000100100000 = .ok (.sneReg 1 2) := by decide
theorem test_decode_ldI : decode 0b1010001100000000 = .ok (.ldI 0x300) := by decide
theorem test_decode_jpV0 : decode 0b1011001100000000 = .ok (.jpV0 0x300) := by decide
theorem test_decode_rnd : decode 0b1100001100001111 = .ok (.rnd 3 0x0F) := by decide
theorem test_decode_drw : decode 0b1101000100100101 = .ok (.drw 1 2 5) := by decide
theorem test_decode_skp : decode 0b1110000110011110 = .ok (.skp 1) := by decide
theorem test_decode_sknp : decode 0b1110000110100001 = .ok (.sknp 1) := by decide
theorem test_decode_ldVxDT : decode 0b1111001000000111 = .ok (.ldVxDT 2) := by decide
theorem test_decode_ldVxK : decode 0b1111000100001010 = .ok (.ldVxK 1) := by decide
theorem test_decode_ldDTVx : decode 0b1111000000010101 = .ok (.ldDTVx 0) := by decide
theorem test_decode_ldSTVx : decode 0b1111001100011000 = .ok (.ldSTVx 3) := by decide
theorem test_decode_addI : decode 0b1111001000011110 = .ok (.addI 2) := by decide
theorem test_decode_ldF : decode 0b1111000000101001 = .ok (.ldF 0) := by decide
theorem test_decode_ldB : decode 0b1111000000110011 = .ok (.ldB 0) := by decide
theorem test_decode_ldMemVx : decode 0b1111001001010101 = .ok (.ldMemVx 2) := by decide
theorem test_decode_ldVxMem : decode 0b1111001001100101 = .ok (.ldVxMem 2) := by decide

/-- The opcode is unknown, and doubtful (R98) or not. -/
def unknown (doubtful : Bool) (w : Word) : Bool :=
  decide (decode w = .error (.unknownOpcode w)) && doubtfulOpcode w == doubtful

/-- T-CY12: unknown opcodes of families 0, 8, E and F, in no doubt. -/
theorem test_unknown_opcodes :
    [0x0000, 0x00E1, 0x00FE, 0x0123, 0x8128, 0x812F, 0xE100, 0xE19F, 0xF100, 0xF1FF, 0xF106].all (unknown false) = true := by
  decide

/-- T-CY12b: the doubtful opcodes are unknown and named as doubtful (R98). -/
theorem test_doubtful_opcodes :
    [0x01E0, 0x0FEE, 0x5121, 0x512F, 0x9121, 0x9AB3, 0xE10E, 0xE1F1].all (unknown true) = true := by decide

/-- T-CY1: the high byte stands at the lower address; the rest of the bytes is given back. -/
theorem test_decode_bytes : decodeBytes [0x12, 0x34, 0x56] = .ok (.jp 0x234, [0x56]) := by decide
theorem test_one_byte_is_too_short : decodeBytes [0x12] = .error (.tooShort 1) := by decide

/-! ### Steps: fetch and decode -/

/-- The reset state with pc = `a` and the opcode `w` there. -/
def atPc (a w : Word) : State := { State.reset with pc := a }.withFetchWord 16 w.toNat

theorem test_table_word : decodeTableWord 16 0x8AB6 = some (.shr 10 11) := by decide
theorem test_table_word_unknown : decodeTableWord 16 0x5121 = none := by decide

/-- T-CY1. -/
theorem test_step_big_endian : nextHas (step (at200 0x1234)) (fun t => t.pc == 0x234) = true := by decide

/-- T-CY2: an odd pc is an ordinary pc. -/
theorem test_step_odd_pc :
    nextHas (step (atPc 0x201 0x602A)) (fun t => t.reg 0 == 0x2A && t.pc == 0x203) = true := by decide

/-- T-CY3: the reset content is the unknown opcode 0x0000. -/
theorem test_step_unknown : nextHas (step State.reset) (fun t =>
    t == { State.reset with pc := 0x202, events := [.unknownOpcode 0x0000 0x200] }) = true := by decide

/-- T-CY4. -/
theorem test_fetch_at_4095_faults :
    faultIs (step { State.reset with pc := 4095 }) (.memoryOutOfBounds 4095 4096) = true := by decide

/-- T-CY4b: a fetch of the last two cells is legal. -/
theorem test_fetch_at_4094 : nextHas (step (atPc 4094 0x1200)) (fun t => t.pc == 0x200) = true := by decide

/-- T-CY6b: no fetch while paused, so no fault. -/
theorem test_paused_step_at_4095 : nextHas (step { State.reset with pc := 4095, paused := true }) (fun t =>
    t == { State.reset with pc := 4095, paused := true }) = true := by decide

/-! ### Control transfer -/

/-- T-FL3. -/
theorem test_ret : nextHas (step { at200 0x00EE with stack := [0x300, 0x206] }) (fun t =>
    t.pc == 0x206 && t.stack == [0x300]) = true := by decide

/-- T-FL2. -/
theorem test_ret_empty : faultIs (step (at200 0x00EE)) (.stackUnderflow 0x200) = true := by decide

/-- T-FL4. -/
theorem test_jp : nextHas (step (atPc 0x20A 0x1204)) (fun t => t.pc == 0x204) = true := by decide

/-- T-FL7. -/
theorem test_call : nextHas (step (atPc 0x204 0x220A)) (fun t => t.stack == [0x206] && t.pc == 0x20A) = true := by
  decide

/-- R143: the fault of a full stack of finite capacity. -/
theorem test_call_full : faultIs (step { atPc 0x204 0x220A with
    cfg := { defaultConfig with stackCapacity := some 0 } }) (.stackOverflow 0x204) = true := by decide

/-- T-FL9, T-FL10. -/
theorem test_se : nextHas (step (atPc 0x208 0x3100)) (fun t => t.pc == 0x20C) = true := by decide
theorem test_se_not : nextHas (step ((atPc 0x208 0x3100).setReg 1 4)) (fun t => t.pc == 0x20A) = true := by decide

/-- T-FL11, T-FL12. -/
theorem test_sne : nextHas (step (atPc 0x300 0x4F01)) (fun t => t.pc == 0x304) = true := by decide
theorem test_sne_not : nextHas (step ((atPc 0x300 0x4F01).setReg 15 1)) (fun t => t.pc == 0x302) = true := by decide

/-- T-FL13, T-FL14. -/
theorem test_sne5 : nextHas (step (((at200 0x5120).setReg 1 3).setReg 2 4)) (fun t => t.pc == 0x204) = true := by
  decide
theorem test_sne5_equal : nextHas (step (((at200 0x5120).setReg 1 3).setReg 2 3)) (fun t => t.pc == 0x202) = true := by
  decide

/-- T-FL16. -/
theorem test_sneReg : nextHas (step (((at200 0x9120).setReg 1 3).setReg 2 4)) (fun t => t.pc == 0x204) = true := by
  decide

/-- T-FL20: the sum is not reduced. -/
theorem test_jpV0 : nextHas (step ((at200 0xBFFF).setReg 0 0xFF)) (fun t => t.pc == 0x10FE) = true := by decide

/-- 90_conflicts.md C7: for V[0] = 1 the reference's form gives `nnn & 0x1000`, which is 0. -/
theorem test_jpV0_reference : nextHas (step ({ at200 0xBFFF with
    cfg := { defaultConfig with jpV0Form := .referenceAnd } }.setReg 0 1)) (fun t => t.pc == 0x0000) = true := by decide

/-! ### Registers and ALU -/

/-- T-AL2. -/
theorem test_ldImm : nextHas (step ((at200 0x6F00).setReg 15 7)) (fun t => t.reg 15 == 0) = true := by decide

/-- T-AL4: no carry flag. -/
theorem test_addImm : nextHas (step (((at200 0x7002).setReg 0 0xFF).setReg 15 9)) (fun t =>
    t.reg 0 == 0x01 && t.reg 15 == 9) = true := by decide

/-- T-AL6. -/
theorem test_ldReg : nextHas (step ((at200 0x8120).setReg 2 7)) (fun t => t.reg 1 == 7) = true := by decide

/-- `V1 = 0x0C`, `V2 = 0x0A`, `VF = 5`, the start of T-AL7 to T-AL9. -/
def logicStart (w : Word) : State := (((at200 w).setReg 1 0x0C).setReg 2 0x0A).setReg 15 5

/-- T-AL7, T-AL8, T-AL9. -/
theorem test_or : nextHas (step (logicStart 0x8121)) (fun t => t.reg 1 == 0x0E && t.reg 15 == 5) = true := by decide
theorem test_and : nextHas (step (logicStart 0x8122)) (fun t => t.reg 1 == 0x08 && t.reg 15 == 5) = true := by decide
theorem test_xor : nextHas (step (logicStart 0x8123)) (fun t => t.reg 1 == 0x06 && t.reg 15 == 5) = true := by decide

/-- T-AL11. -/
theorem test_add : nextHas (step (((at200 0x8014).setReg 0 200).setReg 1 100)) (fun t =>
    t.reg 0 == 44 && t.reg 15 == 1) = true := by decide

/-- T-AF1: the result is written first, the carry over it. -/
theorem test_add_flag_destination : nextHas (step (((at200 0x8F14).setReg 15 200).setReg 1 100)) (fun t =>
    t.reg 15 == 1) = true := by decide

/-- T-AL15: the flag is strict. -/
theorem test_sub_equal : nextHas (step (((at200 0x8015).setReg 0 7).setReg 1 7)) (fun t =>
    t.reg 0 == 0 && t.reg 15 == 0) = true := by decide

/-- T-AF4: the flag 1 is written first, then 1 - 3 mod 256. -/
theorem test_sub_flag_destination : nextHas (step (((at200 0x8F15).setReg 15 5).setReg 1 3)) (fun t =>
    t.reg 15 == 254) = true := by decide

/-- T-AL17: `V[y]` is not used. -/
theorem test_shr : nextHas (step (((at200 0x8126).setReg 1 0x04).setReg 2 0xFF)) (fun t =>
    t.reg 1 == 0x02 && t.reg 15 == 0 && t.reg 2 == 0xFF) = true := by decide

/-- T-AL19: bit 7 becomes 0. -/
theorem test_shr_logical : nextHas (step ((at200 0x8106).setReg 1 0xFF)) (fun t =>
    t.reg 1 == 0x7F && t.reg 15 == 1) = true := by decide

/-- T-AL20. -/
theorem test_subn : nextHas (step (((at200 0x8017).setReg 0 5).setReg 1 7)) (fun t =>
    t.reg 0 == 2 && t.reg 15 == 1) = true := by decide

/-- T-AF12: 7 > 3 sets the flag to 1, then 1 - 3 underflows. -/
theorem test_subn_flag_operand : faultIs (step (((at200 0x81F7).setReg 1 3).setReg 15 7))
    (.arithmeticUnderflow 0x200) = true := by decide

/-- T-AL25: the flag is 0x80, not 1. -/
theorem test_shl : nextHas (step ((at200 0x810E).setReg 1 0xC1)) (fun t =>
    t.reg 1 == 0x82 && t.reg 15 == 0x80) = true := by decide

/-- T-AF14. -/
theorem test_shl_flag_destination : nextHas (step ((at200 0x8F0E).setReg 15 0xFF)) (fun t =>
    t.reg 15 == 0) = true := by decide

/-- R173: one draw is consumed, no other register is written. -/
theorem test_rnd : nextHas (step ((at200 0xC30F).setReg 4 9)) (fun t =>
    t.draws == 1 && t.reg 4 == 9 && t.pc == 0x202) = true := by decide

/-! ### Index register and memory -/

/-- T-IX2. -/
theorem test_ldI : nextHas (step (at200 0xAFFF)) (fun t => t.i == 0x0FFF) = true := by decide

/-- T-IX5, T-IX6. -/
theorem test_addI : nextHas (step ({ at200 0xF01E with i := 0xFF00 }.setReg 0 0xFF)) (fun t =>
    t.i == 0xFFFF && t.reg 15 == 0) = true := by decide
theorem test_addI_overflow : faultIs (step ({ at200 0xF01E with i := 0xFF01 }.setReg 0 0xFF))
    (.indexOverflow 0x200) = true := by decide

/-- T-IX10: the byte is not masked. -/
theorem test_ldF : nextHas (step ((at200 0xF029).setReg 0 0xFF)) (fun t => t.i == 0x04FB) = true := by decide

/-- T-IX13, T-IX15. -/
theorem test_ldB : nextHas (step ({ at200 0xF033 with i := 4093 }.setReg 0 255)) (fun t =>
    t.cell 4093 == 2 && t.cell 4094 == 5 && t.cell 4095 == 5 && t.i == 4093) = true := by decide
theorem test_ldB_past_memory : faultIs (step ({ at200 0xF033 with i := 4094 }.setReg 0 1))
    (.memoryOutOfBounds 0x200 4096) = true := by decide

/-- T-IX16, T-IX18. -/
theorem test_ldMemVx :
    nextHas (step ((({ at200 0xF255 with i := 0x400 }.setReg 0 1).setReg 1 5).setReg 2 7)) (fun t =>
      t.cell 0x400 == 1 && t.cell 0x401 == 5 && t.cell 0x402 == 7 && t.cell 0x403 == 0 && t.i == 0x400) = true := by
  decide
theorem test_ldMemVx_past_memory : faultIs (step { at200 0xF155 with i := 4095 })
    (.memoryOutOfBounds 0x200 4096) = true := by decide

/-- T-IX21: the first glyph of the font. T-IX23: the first offending address is recorded. -/
theorem test_ldVxMem : nextHas (step ((at200 0xF465).setReg 5 0x99)) (fun t =>
    t.reg 0 == 0xF0 && t.reg 1 == 0x90 && t.reg 3 == 0x90 && t.reg 4 == 0xF0 && t.reg 5 == 0x99) = true := by decide
theorem test_ldVxMem_past_memory : faultIs (step { at200 0xF065 with i := 0xFFFF })
    (.memoryOutOfBounds 0x200 0xFFFF) = true := by decide

/-- X7: the glyph "A" of the font. -/
theorem test_font_glyph_A :
    [State.reset.cell 50, State.reset.cell 51, State.reset.cell 52, State.reset.cell 53, State.reset.cell 54]
      = [0xF0, 0x90, 0xF0, 0x90, 0x90] := by decide

/-! ### Display -/

/-- T-DR1. -/
theorem test_cls : nextHas (step (((at200 0x00E0).togglePixel 1 1).togglePixel 2 1)) (fun t =>
    t.display == State.reset.display && t.events.getLast? == some .displayClear) = true := by decide

/-- A state with one sprite byte at 0x300 and `I` there. -/
def spriteAt300 (w : Word) (b : Byte) : State :=
  { at200 w with i := 0x300, mem := Memory.write defaultFont (at200 w).mem 0x300 b }

/-- T-DR4: the row crosses the right edge; the requests come left to right. -/
theorem test_drw_wraps : nextHas (step ((spriteAt300 0xD011 0xFF).setReg 0 60)) (fun t => t.reg 15 == 0 &&
    t.events == [.displayToggle 60 0, .displayToggle 61 0, .displayToggle 62 0, .displayToggle 63 0,
      .displayToggle 0 0, .displayToggle 1 0, .displayToggle 2 0, .displayToggle 3 0]) = true := by decide

/-- T-DR12 on a display with pixel (5,0) on: the old `V[15]` is the column, then it takes the collision. -/
theorem test_drw_collides : nextHas (step (((spriteAt300 0xDF11 0x80).setReg 15 5).togglePixel 5 0)) (fun t =>
    t.reg 15 == 1 && t.display == State.reset.display) = true := by decide

/-! ### Keypad and timers -/

/-- T-KT1, T-KT5. -/
theorem test_skp : nextHas (step (((at200 0xE19E).setReg 1 4).setKey 4 true)) (fun t => t.pc == 0x204) = true := by
  decide
theorem test_skp_out_of_range : faultIs (step ((at200 0xE09E).setReg 0 16)) (.keyOutOfRange 0x200 16) = true := by
  decide

/-- T-KT3, T-KT6. -/
theorem test_sknp : nextHas (step ((at200 0xE1A1).setReg 1 4)) (fun t => t.pc == 0x204) = true := by decide
theorem test_sknp_out_of_range : faultIs (step ((at200 0xE0A1).setReg 0 0xFF)) (.keyOutOfRange 0x200 255) = true := by
  decide

/-- T-KT8. -/
theorem test_ldVxDT : nextHas (step { at200 0xF207 with dt := 3 }) (fun t => t.reg 2 == 3) = true := by decide

/-- T-KT9. -/
theorem test_ldVxK : nextHas (step (atPc 0x204 0xF10A)) (fun t =>
    t.paused && t.pending == 1 && t.pc == 0x206 && t.reg 1 == 0) = true := by decide

/-- T-KT12, T-KT13. -/
theorem test_ldDTVx : nextHas (step ((at200 0xF015).setReg 0 3)) (fun t => t.dt == 3 && t.st == 0) = true := by decide
theorem test_ldSTVx : nextHas (step ((at200 0xF318).setReg 3 0x20)) (fun t => t.st == 0x20 && t.dt == 0) = true := by
  decide

/-! ### The operations of the host -/

/-- The default parameters with two Steps a Tick. -/
def twoSteps : Config := { defaultConfig with stepsPerTick := 2 }

/-- X8 with two Steps a Tick: a timer of 5 goes to 4, one of 0 stays. -/
theorem test_tick_decrements : nextHas (tick { at200 0x1200 with dt := 5, cfg := twoSteps }) (fun t =>
    t.dt == 4 && t.st == 0 && t.pc == 0x200) = true := by decide

/-- R127 (1): a pause entered in a Tick keeps that Tick from decrementing. -/
theorem test_tick_pausing : nextHas (tick { at200 0xF10A with dt := 5, cfg := twoSteps }) (fun t =>
    t.dt == 5 && t.paused && t.pc == 0x202) = true := by decide

/-- T-CY11c: KeyDown in AwaitingKey completes the pause. T-CY11d: KeyUp does not. -/
theorem test_keyDown_accepts : (keyDown 0 { State.reset with paused := true, pending := 15 }).paused = false ∧
    (keyDown 0 { State.reset with paused := true, pending := 15 }).isKeyDown 0 = true := by decide
theorem test_keyUp_does_not : (keyUp 9 ({ State.reset with paused := true, pending := 2 }.setKey 9 true)) =
    { State.reset with paused := true, pending := 2 } := by decide

/-- T-CY11: KeyAccept while Running. -/
theorem test_keyAccept_running : keyAccept 5 State.reset = State.reset := by decide

/-- R121: the bytes go to 0x200 and on; the first Step of P1 runs the first opcode (95_test_vectors.md). -/
theorem test_load_then_step :
    nextHas (run defaultConfig [] (some [0x60, 0x9D, 0xA3, 0x00]) [.step, .step]) (fun t =>
      t.reg 0 == 0x9D && t.i == 0x300 && t.pc == 0x204) = true := by decide

/-- R262: a key event between Reset and LoadProgram is legal, and the key's level is still there after the load. R121:
after a Step there is no load. -/
theorem test_key_before_load :
    nextHas (run defaultConfig [.keyDown 7, .keyUp 3] (some [0x12, 0x00]) []) (fun t =>
      t.isKeyDown 7 && t.cell 0x200 == 0x12) = true := by decide
theorem test_no_load_after_step :
    nextHas (run defaultConfig [.step] (some [0x12, 0x00]) []) (fun _ => true) = false := by decide

/-- R37 with another FONT: its bytes stand in the cells 0 .. 79, nothing above, and memory still lists nothing. -/
theorem test_other_font : let s := State.resetWith { defaultConfig with font := Vector.replicate 80 0x5A }
    s.cell 0 = 0x5A ∧ s.cell 79 = 0x5A ∧ s.cell 80 = 0x00 ∧ s.mem = [] := by decide

/-! ### Witnesses: for each statement with hypotheses, states and operands that meet all of them together, one for each
clause and at the bounds where clauses meet -/

/-- `n` full entries on a stack of capacity `c`. -/
def stackOf (c n : Nat) : State :=
  { State.reset with stack := List.replicate n 0x202, cfg := { defaultConfig with stackCapacity := some c } }

/-- A paused machine at a pc that no fetch could use. -/
def waiting : State := { State.reset with pc := 4095, paused := true, pending := 15 }

/-- A state with the default parameters, a clear display and an empty stack meets the invariant where its memory is
canonical and its pc is no higher than a run can take it. -/
theorem inv_of_clear {s : State} (hc : s.cfg = defaultConfig) (hm : Memory.wf defaultFont s.mem) (hd : s.display = clearBitmap 64 32)
    (hs : s.stack = []) (hpc : s.pc.toNat ≤ 4350) : s.Inv where
  config := by rw [hc]; decide
  memory := by rw [hc]; exact hm
  display := ⟨by rw [hd, hc]; rfl, fun row h => by
    rw [hd] at h; rw [List.eq_of_mem_replicate h, hc]; rfl⟩
  stack := fun c _ => by rw [hs]; exact Nat.zero_le c
  pc := hpc
  returns := by simp [hs]

/-- `JP 0x200` at 0x200 meets the invariant. -/
theorem at200_jump_inv : (at200 0x1200).Inv := inv_of_clear rfl (by decide) rfl rfl (by decide)

/-- The reset state with any `I` meets the invariant. -/
theorem reset_index_inv (w : Word) : { State.reset with i := w }.Inv :=
  inv_of_clear rfl (show Memory.wf defaultFont [] by decide) rfl rfl (show (0x200 : Word).toNat ≤ 4350 by decide)

theorem witness_EncodeThenDecodeGivesTheInstruction : (Instr.drw 15 15 15).wellFormed = true := by decide
theorem witness_DecodeThenEncodeGivesTheOpcode : decode 0x8AB6 = .ok (.shr 10 11) := by decide
theorem witness_DecodesExactlyWhatTheMapSelects_selected :
    (OpcodeRow.mk 0xF0FF 0xF065) ∈ opcodeMap ∧ (OpcodeRow.mk 0xF0FF 0xF065).selects 0xFF65 = true ∧
      decode 0xFF65 = .ok (.ldVxMem 15) := by decide
theorem witness_DecodesExactlyWhatTheMapSelects_unknown : ∀ row ∈ opcodeMap, row.selects 0x5121 = false := by decide
theorem witness_MapRowsAreDisjoint : ∃ row ∈ opcodeMap, row.selects 0x00EE = true := by decide
theorem witness_StepRunsTheDecodedInstruction :
    (at200 0x602A).canFetch ∧ decode (at200 0x602A).opcodeAtPc = .ok (.ldImm 0 0x2A) := by decide
theorem witness_StepRunsTheStoredInstruction_lastFetch : let s := atPc 4094 0x602A
    s.canFetch ∧ s.cell s.pc.toNat = hiByte (encode (.ldImm 0 0x2A)) ∧
      s.cell (s.pc.toNat + 1) = loByte (encode (.ldImm 0 0x2A)) := by decide
theorem witness_PausedStepChangesNothing : waiting.paused = true := by decide
theorem witness_UnknownOpcodeIsPassedOver :
    (atPc 4094 0x0000).canFetch ∧ ∀ row ∈ opcodeMap, row.selects (atPc 4094 0x0000).opcodeAtPc = false := by decide
theorem witness_FetchPastMemoryFaults_first :
    { State.reset with pc := 4095 }.paused = false ∧ 4095 ≤ { State.reset with pc := 4095 }.pc.toNat := by decide
theorem witness_FetchPastMemoryFaults_highest :
    { State.reset with pc := 0xFFFF }.paused = false ∧ 4095 ≤ { State.reset with pc := 0xFFFF }.pc.toNat := by decide
theorem witness_StepKeepsTheInvariant : (at200 0x1200).Inv ∧ nextHas (step (at200 0x1200)) (fun _ => true) = true :=
  ⟨at200_jump_inv, by decide⟩
theorem witness_HostOperationsKeepTheInvariant_perform :
    (at200 0x1200).Inv ∧ nextHas (perform .tick (at200 0x1200)) (fun _ => true) = true :=
  ⟨at200_jump_inv, by decide⟩
theorem witness_HostOperationsKeepTheInvariant_load : State.reset.Inv ∧
    nextHas (loadProgram [0x12, 0x00] State.reset) (fun _ => true) = true :=
  ⟨reset_index_inv 0, by decide⟩
theorem witness_HostOperationsKeepTheInvariant_reset : (at200 0x1200).Inv := at200_jump_inv
theorem witness_ResetMeetsTheInvariant : defaultConfig.wellFormed = true ∧ waiting.cfg.wellFormed = true := by decide
theorem witness_OnlyNamedRegistersAreWritten :
    nextHas (exec (.ldVxMem 14) State.reset) (fun _ => true) = true ∧ writesReg (.ldVxMem 14) 15 = false := by decide
theorem witness_OnlyStoredCellsAreWritten_below : nextHas (exec (.ldB 0) { State.reset with i := 4093 }) (fun _ => true)
    = true ∧ 4092 < { State.reset with i := 4093 }.effAddr 0 := by decide
theorem witness_OnlyStoredCellsAreWritten_above : nextHas (exec (.ldB 0) { State.reset with i := 4092 }) (fun _ => true)
    = true ∧ { State.reset with i := 4092 }.effAddr (storedCells (.ldB 0)) ≤ 4095 := by decide
theorem witness_OnlyNamedControlStateIsWritten (i : Instr) (h : i = .ldImm 0 1) :
    nextHas (exec i State.reset) (fun _ => true) = true ∧ writesPc i = false ∧ writesI i = false ∧
      writesStack i = false ∧ (∀ x, i ≠ .ldDTVx x) ∧ (∀ x, i ≠ .ldSTVx x) ∧ (∀ x, i ≠ .ldVxK x) ∧
      writesDisplay i = false ∧ ∀ x kk, i ≠ .rnd x kk := by
  subst h
  exact ⟨by decide, rfl, rfl, rfl, nofun, nofun, nofun, rfl, nofun⟩
theorem witness_OperationsKeepKeysParametersAndEvents_step :
    nextHas (perform .step State.reset) (fun _ => true) = true := by decide
theorem witness_OperationsKeepKeysParametersAndEvents_keyDown :
    nextHas (perform (.keyDown 3) State.reset) (fun _ => true) = true := by decide
theorem witness_OperationsKeepKeysParametersAndEvents_load :
    nextHas (loadProgram [0x12, 0x00] (State.reset.setKey 7 true)) (fun _ => true) = true := by decide
theorem witness_FaultsAreThoseOfTheTable :
    faultIs (exec .ret { State.reset with pc := 0x202 }) (.stackUnderflow 0x200) = true := by decide
theorem witness_FaultlessInstructionsComplete : ∀ f, mayRaise .cls f = false := by intro f; cases f <;> rfl
theorem witness_PauseIsEnteredAndLeftOnlyAsNamed_entered :
    nextHas (exec (.ldVxK 3) State.reset) (fun t => t.paused) = true ∧ State.reset.paused = false := by decide
theorem witness_PauseIsEnteredAndLeftOnlyAsNamed_kept :
    waiting.paused = true ∧ nextHas (perform (.keyUp 3) waiting) (fun _ => true) = true := by decide
theorem witness_PauseIsEnteredAndLeftOnlyAsNamed_left :
    waiting.paused = true ∧ nextHas (perform (.keyDown 3) waiting) (fun _ => true) = true := by decide
theorem witness_ResetHoldsTheDecidedValues_bounds : 79 < 80 ∧ 80 ≤ 80 := by decide
theorem witness_LoadProgramCopiesTheBytes_longest : (List.replicate 3584 (0x60 : Byte)).length ≤ 3584 := by
  rw [List.length_replicate]
theorem witness_LoadProgramCopiesTheBytes_tooLong : 3584 < (List.replicate 3585 (0x60 : Byte)).length := by
  rw [List.length_replicate]; decide
theorem witness_LoadProgramCopiesTheBytes_started :
    waiting ≠ { State.resetWith waiting.cfg with keys := waiting.keys } := by decide
theorem witness_LoadProgramCopiesTheBytes_keyHeld : (State.reset.setKey 7 true).atReset := by decide
theorem witness_TickDecrementsTheTimersOnce_next :
    nextHas (steps (at200 0x1200).cfg.stepsPerTick (at200 0x1200)) (fun t => !t.paused) = true := by decide
theorem witness_TickDecrementsTheTimersOnce_paused :
    nextHas (steps waiting.cfg.stepsPerTick waiting) (fun t => t.paused) = true := by decide
theorem witness_TickDecrementsTheTimersOnce_fault :
    faultIs (steps (at200 0x00EE).cfg.stepsPerTick (at200 0x00EE)) (.stackUnderflow 0x200) = true := by decide
theorem witness_PausedTickChangesNothing : waiting.paused = true := by decide
theorem witness_TickAtJumpToSelfOnlyDecrements : (at200 0x1200).canFetch ∧
    (at200 0x1200).pc = (0x200 : Addr12).setWidth 16 ∧ (at200 0x1200).opcodeAtPc = encode (.jp 0x200) := by decide
theorem witness_KeyAcceptCompletesThePause : waiting.paused = true ∧ State.reset.paused = false := by decide
theorem witness_KeyEventsSetTheKeyLevel : waiting.paused = true ∧ State.reset.paused = false := by decide
theorem witness_CallPushesTheAdvancedPc_unbounded :
    ∀ c, State.reset.cfg.stackCapacity = some c → State.reset.stack.length < c := by simp [State.reset, State.resetWith, defaultConfig]
theorem witness_CallPushesTheAdvancedPc_lastEntry :
    ∀ c, (stackOf 16 15).cfg.stackCapacity = some c → (stackOf 16 15).stack.length < c := by
  intro c h; cases h; decide
theorem witness_CallPushesTheAdvancedPc_full :
    (stackOf 16 16).cfg.stackCapacity = some 16 ∧ 16 ≤ (stackOf 16 16).stack.length := by decide
theorem witness_ReturnPopsIntoPc_top : (stackOf 16 1).stack = [] ++ [0x202] := by decide
theorem witness_ReturnPopsIntoPc_empty : State.reset.stack = [] := by decide
theorem witness_CallThenReturnComesBack :
    let s := { at200 0x2FFE with mem := Memory.write defaultFont (at200 0x2FFE).mem 4095 0xEE }
    s.canFetch ∧ s.opcodeAtPc = encode (.call 0xFFE) ∧ (0xFFE : Addr12).toNat + 1 < memSize ∧
      s.cell (0xFFE : Addr12).toNat = 0x00 ∧ s.cell ((0xFFE : Addr12).toNat + 1) = 0xEE ∧
      s.cfg.stackCapacity = none := by decide
theorem witness_Skip5FollowsItsSense_notEqual : State.reset.cfg.skip5Sense = .notEqual := by decide
theorem witness_Skip5FollowsItsSense_equal :
    { State.reset with cfg := { defaultConfig with skip5Sense := .equal } }.cfg.skip5Sense = .equal := by decide
theorem witness_JumpV0FollowsItsForm_sum : State.reset.cfg.jpV0Form = .sum := by decide
theorem witness_JumpV0FollowsItsForm_referenceAnd :
    { State.reset with cfg := { defaultConfig with jpV0Form := .referenceAnd } }.cfg.jpV0Form = .referenceAnd := by decide

/-- `V[x] = a` and `V[y] = b` for x = 0, y = 1. -/
def pair (a b : Byte) : State := (State.reset.setReg 0 a).setReg 1 b

theorem witness_SubnSetsFlagThenSubtracts_underflow : ((pair 1 0).reg 1).toNat < ((pair 1 0).reg 0).toNat := by decide
theorem witness_SubnSetsFlagThenSubtracts_equal : ((pair 7 7).reg 0).toNat ≤ ((pair 7 7).reg 1).toNat := by decide
theorem witness_SubnSetsFlagThenSubtracts_flagDestination : (15 : RegIx) = flagReg ∧
    faultIs (exec (.subn 15 1) (State.reset.setReg 15 9)) (.arithmeticUnderflow 0x1FE) = false := by decide
theorem witness_RandomIsTheMaskedDraw : (0x00 : Byte) = 0 := by decide
theorem witness_AddIndexAddsOrFaults_highest : let s := { pair 0xFF 0 with i := 0xFF00 }
    s.i.toNat + (s.reg 0).toNat ≤ 0xFFFF := by decide
theorem witness_AddIndexAddsOrFaults_overflow : let s := { pair 0xFF 0 with i := 0xFF01 }
    0xFFFF < s.i.toNat + (s.reg 0).toNat := by decide
theorem witness_StoreDecimalWritesThreeDigits_last : { State.reset with i := 4093 }.effAddr 2 < 4096 := by decide
theorem witness_StoreDecimalWritesThreeDigits_fault : 4096 ≤ { State.reset with i := 4094 }.effAddr 2 := by decide
theorem witness_StoreRegistersWritesTheRange_last :
    { State.reset with i := 4080 }.effAddr (15 : RegIx).toNat < 4096 := by decide
theorem witness_StoreRegistersWritesTheRange_fault :
    4096 ≤ { State.reset with i := 4081 }.effAddr (15 : RegIx).toNat := by decide
theorem witness_LoadRegistersReadsTheRange_last :
    { State.reset with i := 4080 }.effAddr (15 : RegIx).toNat < 4096 := by decide
theorem witness_LoadRegistersReadsTheRange_fault :
    4096 ≤ { State.reset with i := 4081 }.effAddr (15 : RegIx).toNat := by decide
theorem witness_DrawInvertsTheSpritePixels_lastRow :
    { State.reset with i := 4081 }.Inv ∧ { State.reset with i := 4081 }.effAddr (15 : Nibble).toNat ≤ 4096 :=
  ⟨reset_index_inv 4081, by decide⟩
theorem witness_DrawInvertsTheSpritePixels_noRow :
    { State.reset with i := 0xFFFF }.Inv ∧ (0x0 : Nibble) = 0 :=
  ⟨reset_index_inv 0xFFFF, rfl⟩
theorem witness_DrawPastMemoryFaults :
    (15 : Nibble) ≠ 0 ∧ 4096 < { State.reset with i := 4082 }.effAddr (15 : Nibble).toNat := by decide
theorem witness_DrawingTwiceRestoresTheDisplay : State.reset.Inv ∧ (0 : RegIx) ≠ flagReg ∧ (1 : RegIx) ≠ flagReg ∧
    nextHas (exec (.drw 0 1 5) State.reset) (fun _ => true) = true :=
  ⟨reset_index_inv 0, by decide⟩
theorem witness_SkipsOnKeyLevel_lastKey : (pair 15 0).reg 0 = (15 : KeyCode).setWidth 8 := by decide
theorem witness_SkipsOnKeyLevel_outOfRange : 15 < ((pair 16 0).reg 0).toNat := by decide

end Sys2Proof.Tests
end

section
/-! SUPPORT. What an instruction that can fault did when it completed, once each; then that instructions and host
operations take back no event and write neither the keys nor the parameters (00_scope.md R9, 60_exceptions.md R256). -/

namespace Sys2Proof.Machine

variable {s t u : State}

/-! ### The operations that can fail -/

/-- A completed pop wrote the call stack only. -/
theorem State.pop_frame {w : Word} (h : s.pop = .ok (u, w)) : u = { s with stack := u.stack } := by
  unfold State.pop at h
  split at h <;> cases h
  rfl

/-- A completed push wrote the call stack only. -/
theorem State.push_frame {w : Word} (h : s.push w = .ok u) : u = { s with stack := u.stack } := by
  rw [s.push_eq w] at h
  split_ifs at h
  cases h
  rfl

/-- Completed stores wrote memory only. -/
theorem State.storeCells_frame {a : Word} {addr : Nat} {bytes : List Byte} (h : s.storeCells a addr bytes = .ok u) :
    u = { s with mem := u.mem } := by
  induction bytes generalizing s addr with
  | nil => cases h; rfl
  | cons b bs ih =>
    rw [State.storeCells] at h
    by_cases haddr : addr < memSize
    · rw [s.memWrite_ok haddr] at h
      exact ih (s := { s with mem := Memory.write s.cfg.font s.mem addr b }) h
    · rw [s.memWrite_error (by omega)] at h
      cases h

theorem finish_eq_next {r : Except Fault State} : finish r = .next t ↔ r = .ok t := by
  cases r <;> simp [finish]

/-! ### The instructions that can fault, completed -/

theorem execRet_cases (h : execRet s = .next t) : ∃ u w, s.pop = .ok (u, w) ∧ t = u.setPc w := by
  unfold execRet at h
  split at h <;> cases h
  exact ⟨_, _, ‹_›, rfl⟩

theorem execCall_cases {nnn : Addr12} (h : execCall nnn s = .next t) :
    ∃ u, s.push s.pc = .ok u ∧ t = u.setPc (addrOperand nnn) := by
  unfold execCall at h
  split at h <;> cases h
  exact ⟨_, ‹_›, rfl⟩

theorem execSubn_cases {x y : RegIx} (h : execSubn x y s = .next t) :
    ∃ u, u = s.setFlag (greaterFlag (s.reg y) (s.reg x)) ∧ (u.reg x).toNat ≤ (u.reg y).toNat ∧
      t = u.setReg x (subResult (u.reg y) (u.reg x)) := by
  simp only [execSubn] at h
  split_ifs at h with hlt
  cases h
  exact ⟨_, rfl, Nat.le_of_not_lt hlt, rfl⟩

theorem execAddI_cases {x : RegIx} (h : execAddI x s = .next t) :
    s.indexSum x ≤ 0xFFFF ∧ t = s.setI (BitVec.ofNat 16 (s.indexSum x)) := by
  unfold execAddI at h
  split_ifs at h with hsum
  cases h
  exact ⟨Nat.le_of_not_lt hsum, rfl⟩

theorem execDrw_cases {x y : RegIx} {n : Nibble} (h : execDrw x y n s = .next t) :
    ∃ rows drawn, s.readCells s.instrAddr (s.effAddr 0) n.toNat = .ok rows ∧
      drawn = s.toggleAll (spritePixels s.cfg (s.reg x).toNat (s.reg y).toNat 0 rows) ∧
      t = drawn.1.setFlag (flagOf drawn.2) := by
  unfold execDrw at h
  split at h <;> cases h
  exact ⟨_, _, ‹_›, rfl, rfl⟩

theorem execLdVxMem_cases {x : RegIx} (h : execLdVxMem x s = .next t) :
    ∃ bytes, s.readCells s.instrAddr (s.effAddr 0) (x.toNat + 1) = .ok bytes ∧ t = s.setRegs 0 bytes := by
  unfold execLdVxMem at h
  split at h <;> cases h
  exact ⟨_, ‹_›, rfl⟩

theorem execSkp_cases {x : RegIx} (h : execSkp x s = .next t) :
    ∃ k, s.keyOperand x = .ok k ∧ t = s.skipIf (s.isKeyDown k) := by
  unfold execSkp at h
  split at h <;> cases h
  exact ⟨_, ‹_›, rfl⟩

theorem execSknp_cases {x : RegIx} (h : execSknp x s = .next t) :
    ∃ k, s.keyOperand x = .ok k ∧ t = s.skipIf (!s.isKeyDown k) := by
  unfold execSknp at h
  split at h <;> cases h
  exact ⟨_, ‹_›, rfl⟩

/-! ### Events, parameters and keys -/

/-- From `s` to `t` no event was taken back, and neither the parameters nor the key levels were written. -/
structure State.KeepsOutside (s t : State) : Prop where
  /-- 00_scope.md R9. -/
  events : s.events <+: t.events
  /-- 10_state.md R32. -/
  cfg : t.cfg = s.cfg
  /-- 60_exceptions.md R256. -/
  keys : t.keys = s.keys

theorem State.KeepsOutside.of_eq (events : t.events = s.events) (cfg : t.cfg = s.cfg) (keys : t.keys = s.keys) :
    s.KeepsOutside t :=
  ⟨events ▸ List.prefix_rfl, cfg, keys⟩

theorem State.KeepsOutside.refl (s : State) : s.KeepsOutside s := .of_eq rfl rfl rfl

theorem State.KeepsOutside.trans (h : s.KeepsOutside t) (h' : t.KeepsOutside u) : s.KeepsOutside u :=
  ⟨h.events.trans h'.events, h'.cfg.trans h.cfg, h'.keys.trans h.keys⟩

theorem State.skipIf_keepsOutside (s : State) (condition : Bool) : s.KeepsOutside (s.skipIf condition) := by
  rw [s.skipIf_frame]
  exact .of_eq rfl rfl rfl

/-- Every instruction that completes keeps them: only `00E0` and `Dxyn` emit events, and they append. -/
theorem exec_keepsOutside {i : Instr} (h : exec i s = .next t) : s.KeepsOutside t := by
  cases i with
  | cls => cases h; exact ⟨List.prefix_append _ _, rfl, rfl⟩
  | drw x y n =>
    obtain ⟨rows, drawn, -, rfl, rfl⟩ := execDrw_cases h
    rw [s.toggleAll_frame]
    exact ⟨List.prefix_append _ _, rfl, rfl⟩
  | seImm | sneImm | sne5 | sneReg => cases h; exact s.skipIf_keepsOutside _
  | skp => obtain ⟨k, -, rfl⟩ := execSkp_cases h; exact s.skipIf_keepsOutside _
  | sknp => obtain ⟨k, -, rfl⟩ := execSknp_cases h; exact s.skipIf_keepsOutside _
  | ret =>
    obtain ⟨u, w, hpop, rfl⟩ := execRet_cases h
    rw [State.pop_frame hpop]
    exact .of_eq rfl rfl rfl
  | call =>
    obtain ⟨u, hpush, rfl⟩ := execCall_cases h
    rw [State.push_frame hpush]
    exact .of_eq rfl rfl rfl
  | subn => obtain ⟨u, rfl, -, rfl⟩ := execSubn_cases h; exact .of_eq rfl rfl rfl
  | addI => obtain ⟨-, rfl⟩ := execAddI_cases h; exact .of_eq rfl rfl rfl
  | ldVxMem =>
    obtain ⟨bytes, -, rfl⟩ := execLdVxMem_cases h
    rw [s.setRegs_frame]
    exact .of_eq rfl rfl rfl
  | ldB | ldMemVx =>
    rw [State.storeCells_frame (finish_eq_next.mp h)]
    exact .of_eq rfl rfl rfl
  | jp | jpV0 | ldImm | addImm | ldReg | orReg | andReg | xorReg | addReg | subReg | shr | shl | rnd | ldI | ldF | ldVxDT
  | ldVxK | ldDTVx | ldSTVx => cases h; exact .of_eq rfl rfl rfl

/-- A Step keeps them: an unknown opcode appends its event (40_cycle.md R124). -/
theorem step_keepsOutside (h : step s = .next t) : s.KeepsOutside t := by
  have advanced : s.KeepsOutside s.advancePc := .of_eq rfl rfl rfl
  obtain ⟨-, rfl⟩ | ⟨-, i, -, hexec⟩ | ⟨-, r, -, rfl⟩ := step_cases h
  · exact .refl _
  · exact advanced.trans (exec_keepsOutside hexec)
  · exact advanced.trans ⟨List.prefix_append _ _, rfl, rfl⟩

/-- A Tick keeps them: its Steps do, and the decay writes the timers only. -/
theorem tick_keepsOutside (h : tick s = .next t) : s.KeepsOutside t := by
  obtain ⟨u, hu, rfl⟩ := tick_cases h
  have ran : s.KeepsOutside u := steps_keeps (fun hs hstep => hs.trans (step_keepsOutside hstep)) (.refl s) hu
  rw [u.decayTimers_frame]
  exact ran.trans (.of_eq rfl rfl rfl)

theorem keyAccept_keepsOutside (k : KeyCode) (s : State) : s.KeepsOutside (keyAccept k s) := by
  rw [keyAccept_frame]
  exact .of_eq rfl rfl rfl

/-- A completed LoadProgram wrote memory only (40_cycle.md R121). -/
theorem loadProgram_frame {bytes : List Byte} (h : loadProgram bytes s = .next t) : t = { s with mem := t.mem } := by
  unfold loadProgram at h
  split_ifs at h
  exact State.storeCells_frame (finish_eq_next.mp h)

end Sys2Proof.Machine
end

section
open Sys2Proof Sys2Proof.Machine

/-- Settles O18: Step and Tick keep events, parameters and keys; a key event writes key levels, the pending register and
the pause flag; LoadProgram writes memory only. -/
theorem operationsKeepKeysParametersAndEvents : Obligations.OperationsKeepKeysParametersAndEvents := by
  refine ⟨fun op s t h => ?_, fun bytes s t h => ?_, fun s => ⟨rfl, rfl⟩⟩
  · cases op with
    | step => obtain ⟨events, cfg, keys⟩ := step_keepsOutside h; exact ⟨events, cfg, fun _ => keys⟩
    | tick => obtain ⟨events, cfg, keys⟩ := tick_keepsOutside h; exact ⟨events, cfg, fun _ => keys⟩
    | keyAccept k =>
      cases h
      obtain ⟨events, cfg, keys⟩ := keyAccept_keepsOutside k s
      exact ⟨events, cfg, fun _ => keys⟩
    | keyDown k =>
      cases h
      obtain ⟨events, cfg, -⟩ := keyAccept_keepsOutside k (s.setKey k true)
      exact ⟨events, cfg, by simp⟩
    | keyUp k => cases h; exact ⟨List.prefix_rfl, rfl, by simp⟩
  · rw [loadProgram_frame h]
    exact ⟨rfl, rfl, rfl⟩

end

section
/-! SUPPORT. What an instruction writes: only the components its rules name (10_state.md R21 to R29). -/

namespace Sys2Proof.Machine

variable {s t u : State} {i : Instr}

/-- From `s` to `t` nothing was written but what the instruction `i` is named for. The parameters and the keys, which
no instruction writes, are those of `State.KeepsOutside`. -/
structure State.WritesOnlyNamed (i : Instr) (s t : State) : Prop where
  /-- 10_state.md R21, R22. -/
  reg : ∀ r, writesReg i r = false → t.reg r = s.reg r
  /-- 20_memory.md R65. -/
  mem : storedCells i = 0 → t.mem = s.mem
  /-- 10_state.md R25. -/
  pc : writesPc i = false → t.pc = s.pc
  /-- 10_state.md R23. -/
  index : writesI i = false → t.i = s.i
  /-- 10_state.md R27. -/
  stack : writesStack i = false → t.stack = s.stack
  /-- 10_state.md R28. -/
  dt : (∀ x, i ≠ .ldDTVx x) → t.dt = s.dt
  /-- 10_state.md R28. -/
  st : (∀ x, i ≠ .ldSTVx x) → t.st = s.st
  /-- 10_state.md R29. -/
  pause : (∀ x, i ≠ .ldVxK x) → t.paused = s.paused ∧ t.pending = s.pending
  /-- 44_display.md R210. -/
  display : writesDisplay i = false → t.display = s.display ∧ t.events = s.events
  /-- 60_exceptions.md R259. -/
  draws : (∀ x kk, i ≠ .rnd x kk) → t.draws = s.draws

namespace State.WritesOnlyNamed

theorem refl (i : Instr) (s : State) : s.WritesOnlyNamed i s where
  reg _ _ := rfl
  mem _ := rfl
  pc _ := rfl
  index _ := rfl
  stack _ := rfl
  dt _ := rfl
  st _ := rfl
  pause _ := ⟨rfl, rfl⟩
  display _ := ⟨rfl, rfl⟩
  draws _ := rfl

/-- A named register may be written on top. -/
theorem setReg (h : s.WritesOnlyNamed i t) {x : RegIx} {b : Byte} (named : writesReg i x = true) :
    s.WritesOnlyNamed i (t.setReg x b) :=
  { h with
    reg := fun r hr => by
      have hne : r ≠ x := by rintro rfl; simp [named] at hr
      rw [t.setReg_reg_ne b hne, h.reg r hr] }

theorem setFlag (h : s.WritesOnlyNamed i t) {b : Byte} (named : writesReg i flagReg = true) :
    s.WritesOnlyNamed i (t.setFlag b) := h.setReg named

/-- Toggles are the writes of an instruction named for the display. -/
theorem toggleAll (named : writesDisplay i = true) (pixels : List (Nat × Nat)) :
    s.WritesOnlyNamed i (s.toggleAll pixels).1 := by
  rw [s.toggleAll_frame]
  exact { refl i s with display := fun h => by simp [named] at h }

end State.WritesOnlyNamed

/-- Completed reads answer one byte for each cell. -/
theorem State.readCells_length {a : Word} {addr n : Nat} {bytes : List Byte} (h : s.readCells a addr n = .ok bytes) :
    bytes.length = n := by
  by_cases hrange : addr + n ≤ memSize
  · rw [s.readCells_ok hrange] at h
    cases h
    simp
  · cases n with
    | zero => cases h; rfl
    | succ n => rw [s.readCells_error (by omega) (by omega)] at h; cases h

/-- Bytes that end at `V[x]` leave the registers above `x` alone (43_index_memory.md R196). -/
theorem State.setRegs_reg_above {x r : RegIx} {bytes : List Byte} (hlen : bytes.length = x.toNat + 1)
    (hr : x.toNat < r.toNat) : (s.setRegs 0 bytes).reg r = s.reg r := by
  have := x.isLt
  rw [s.setRegs_reg bytes 0 r (by omega), if_pos (Nat.zero_le _), List.getD_eq_default _ _ (by omega)]

/-- Every instruction that completes wrote only what it is named for. -/
theorem exec_writesOnlyNamed (h : exec i s = .next t) : s.WritesOnlyNamed i t := by
  have start := State.WritesOnlyNamed.refl i s
  cases i with
  | ldImm | addImm | ldReg | orReg | andReg | xorReg | ldVxDT => cases h; exact start.setReg (beq_self_eq_true _)
  | addReg => cases h; exact (start.setReg (by simp [writesReg])).setFlag (by simp [writesReg])
  | subReg | shr | shl => cases h; exact (start.setFlag (by simp [writesReg])).setReg (by simp [writesReg])
  | subn =>
    obtain ⟨u, rfl, -, rfl⟩ := execSubn_cases h
    exact (start.setFlag (by simp [writesReg])).setReg (by simp [writesReg])
  | rnd x kk =>
    cases h
    have drawn : s.WritesOnlyNamed (.rnd x kk) s.consumeDraw := { start with draws := fun h => absurd rfl (h x kk) }
    exact drawn.setReg (beq_self_eq_true _)
  | ldVxMem x =>
    obtain ⟨bytes, hread, rfl⟩ := execLdVxMem_cases h
    have above : ∀ r, writesReg (.ldVxMem x) r = false → (s.setRegs 0 bytes).reg r = s.reg r := fun r hr =>
      State.setRegs_reg_above (State.readCells_length hread) (by simpa [writesReg] using hr)
    rw [s.setRegs_frame] at above ⊢
    exact { start with reg := above }
  | cls => cases h; exact { start with display := nofun }
  | drw x y n =>
    obtain ⟨rows, drawn, -, rfl, rfl⟩ := execDrw_cases h
    exact (State.WritesOnlyNamed.toggleAll rfl _).setFlag (beq_self_eq_true _)
  | seImm | sneImm | sne5 | sneReg => cases h; rw [s.skipIf_frame]; exact { start with pc := nofun }
  | skp => obtain ⟨k, -, rfl⟩ := execSkp_cases h; rw [s.skipIf_frame]; exact { start with pc := nofun }
  | sknp => obtain ⟨k, -, rfl⟩ := execSknp_cases h; rw [s.skipIf_frame]; exact { start with pc := nofun }
  | jp | jpV0 => cases h; exact { start with pc := nofun }
  | ret =>
    obtain ⟨u, w, hpop, rfl⟩ := execRet_cases h
    rw [State.pop_frame hpop]
    exact { start with pc := nofun, stack := nofun }
  | call =>
    obtain ⟨u, hpush, rfl⟩ := execCall_cases h
    rw [State.push_frame hpush]
    exact { start with pc := nofun, stack := nofun }
  | ldI | ldF => cases h; exact { start with index := nofun }
  | addI => obtain ⟨-, rfl⟩ := execAddI_cases h; exact { start with index := nofun }
  | ldB | ldMemVx =>
    rw [State.storeCells_frame (finish_eq_next.mp h)]
    exact { start with mem := nofun }
  | ldVxK x => cases h; exact { start with pause := fun h => absurd rfl (h x) }
  | ldDTVx x => cases h; exact { start with dt := fun h => absurd rfl (h x) }
  | ldSTVx x => cases h; exact { start with st := fun h => absurd rfl (h x) }

end Sys2Proof.Machine
end

section
open Sys2Proof Sys2Proof.Machine

/-- Settles O15: the register part of what an instruction may write. -/
theorem onlyNamedRegistersAreWritten : Obligations.OnlyNamedRegistersAreWritten :=
  fun _ _ _ r h => (exec_writesOnlyNamed h).reg r

/-- Settles O17: the rest of what an instruction may write, and the keys and parameters, which none writes. -/
theorem onlyNamedControlStateIsWritten : Obligations.OnlyNamedControlStateIsWritten := by
  intro i s t h
  obtain ⟨-, -, pc, index, stack, dt, st, pause, display, draws⟩ := exec_writesOnlyNamed h
  obtain ⟨-, cfg, keys⟩ := exec_keepsOutside h
  exact ⟨pc, index, stack, dt, st, pause, display, draws, keys, cfg⟩

end

section
/-! SUPPORT. The invariant of every run: each state operation keeps it, so every instruction, every Step and every
operation of the host does (10_state.md R26, R27, R40; 20_memory.md R60). -/

namespace Sys2Proof.Machine

variable {s t u : State} {w : Word}

/-! ### Targets of jumps -/

theorem addrOperand_le (nnn : Addr12) : (addrOperand nnn).toNat ≤ 4095 := by
  rw [addrOperand, BitVec.toNat_setWidth_of_le (by decide)]
  omega

/-- The highest pc a run can take: `0xFFF + 0xFF` (10_state.md R26). -/
theorem jpV0Target_le (form : JpV0Form) (nnn : Addr12) (v0 : Byte) : (jpV0Target form nnn v0).toNat ≤ 4350 := by
  have hnnn : (nnn.setWidth 16).toNat ≤ 4095 := addrOperand_le nnn
  cases form with
  | sum =>
    have hv0 : (v0.setWidth 16).toNat ≤ 255 := by rw [BitVec.toNat_setWidth_of_le (by decide)]; omega
    rw [jpV0Target, BitVec.toNat_add]
    omega
  | referenceAnd =>
    rw [jpV0Target, BitVec.toNat_and]
    exact Nat.and_le_left.trans (by omega)

/-- The advance from 4096 or below does not wrap (log entry 26). -/
theorem State.advancePc_pc_toNat (h : s.pc.toNat ≤ 4096) : s.advancePc.pc.toNat = s.pc.toNat + 2 := by
  rw [State.advancePc_pc, BitVec.toNat_add, show (2 : Word).toNat = 2 from rfl]
  omega

/-- An instruction that was fetched ends at 4096 or below. -/
theorem State.canFetch.advancePc_le (h : s.canFetch) : s.advancePc.pc.toNat ≤ 4096 := by
  have hpc : s.pc.toNat + 1 < 4096 := h.2
  rw [State.advancePc_pc_toNat (by omega)]
  omega

/-! ### The operations that can fail -/

/-- A completed pop took the top off the call stack (10_state.md R27). -/
theorem State.pop_cases (h : s.pop = .ok (u, w)) : ∃ ws, s.stack = ws ++ [w] ∧ u = { s with stack := ws } := by
  obtain hnil | ⟨ws, top, hstack⟩ := s.stack.eq_nil_or_concat'
  · rw [s.pop_nil hnil] at h
    cases h
  · rw [s.pop_concat hstack] at h
    cases h
    exact ⟨ws, hstack, rfl⟩

/-- A completed push found room and put the word on top (10_state.md R27). -/
theorem State.push_cases (h : s.push w = .ok u) :
    (∀ c ∈ s.cfg.stackCapacity, s.stack.length < c) ∧ u = { s with stack := s.stack ++ [w] } := by
  rw [s.push_eq w] at h
  split_ifs at h with hfull
  cases h
  exact ⟨fun c hc => Nat.lt_of_not_le fun hle => hfull ⟨c, hc, hle⟩, rfl⟩

/-- Completed stores keep memory in its canonical form. -/
theorem State.storeCells_wf {a : Word} {addr : Nat} {bytes : List Byte} (hwf : Memory.wf s.cfg.font s.mem)
    (h : s.storeCells a addr bytes = .ok u) : Memory.wf s.cfg.font u.mem := by
  by_cases hrange : addr + bytes.length ≤ memSize
  · rw [s.storeCells_ok hrange] at h
    cases h
    exact Memory.writeAll_wf hwf hrange
  · by_cases hempty : bytes = []
    · subst hempty; cases h; exact hwf
    · rw [s.storeCells_error hempty (by omega)] at h
      cases h

/-- A completed LoadProgram stored the bytes at 0x200 (40_cycle.md R121). -/
theorem loadProgram_cases {bytes : List Byte} (h : loadProgram bytes s = .next t) :
    s.storeCells s.instrAddr programBase bytes = .ok t := by
  unfold loadProgram at h
  split_ifs at h
  exact finish_eq_next.mp h

/-! ### What keeps the invariant -/

namespace State.Inv

/-- The invariant reads the parameters, memory, the bitmap, the call stack and pc only. -/
theorem of_eq (hs : s.Inv) (cfg : t.cfg = s.cfg) (mem : t.mem = s.mem) (display : t.display = s.display)
    (stack : t.stack = s.stack) (pc : t.pc = s.pc) : t.Inv where
  config := by rw [cfg]; exact hs.config
  memory := by rw [cfg, mem]; exact hs.memory
  display := by rw [State.displayFits, cfg, display]; exact hs.display
  stack := by rw [State.stackFits, cfg, stack]; exact hs.stack
  pc := by rw [pc]; exact hs.pc
  returns := by rw [stack]; exact hs.returns

theorem setPc (hs : s.Inv) (hw : w.toNat ≤ 4350) : (s.setPc w).Inv := { hs with pc := hw }

/-- A skip from at most 4096 ends at most at 4098. -/
theorem skipIf (hs : s.Inv) (hpc : s.pc.toNat ≤ 4096) (condition : Bool) : (s.skipIf condition).Inv := by
  cases condition with
  | false => exact hs
  | true => exact hs.setPc ((State.advancePc_pc_toNat hpc).trans_le (by omega))

theorem pop (hs : s.Inv) (h : s.pop = .ok (u, w)) : u.Inv ∧ w.toNat ≤ 4096 := by
  obtain ⟨ws, hstack, rfl⟩ := State.pop_cases h
  have depth := hs.stack
  have returns := hs.returns
  rw [State.stackFits, hstack] at depth
  rw [hstack] at returns
  refine ⟨{ hs with stack := fun c hc => ?_, returns := fun v hv => ?_ }, returns w (by simp)⟩
  · exact (List.prefix_append ws [w]).length_le.trans (depth c hc)
  · exact returns v (List.mem_append_left [w] hv)

theorem push (hs : s.Inv) (hw : w.toNat ≤ 4096) (h : s.push w = .ok u) : u.Inv := by
  obtain ⟨room, rfl⟩ := State.push_cases h
  refine { hs with stack := fun c hc => ?_, returns := fun v hv => ?_ }
  · rw [List.length_append]
    exact room c hc
  · obtain hv | hv := List.mem_append.mp hv
    · exact hs.returns v hv
    · rwa [List.mem_singleton.mp hv]

theorem storeCells (hs : s.Inv) {a : Word} {addr : Nat} {bytes : List Byte} (h : s.storeCells a addr bytes = .ok u) :
    u.Inv := by
  have hwf := State.storeCells_wf hs.memory h
  rw [State.storeCells_frame h]
  exact { hs with memory := hwf }

theorem clearDisplay (hs : s.Inv) : s.clearDisplay.Inv := { hs with display := s.clearDisplay_fits }

theorem toggleAll (hs : s.Inv) (pixels : List (Nat × Nat)) : (s.toggleAll pixels).1.Inv := by
  have hfits := s.toggleAll_fits hs.display pixels
  rw [s.toggleAll_frame] at hfits ⊢
  exact { hs with display := hfits }

theorem keyAccept (hs : s.Inv) (k : KeyCode) : (keyAccept k s).Inv := by
  rw [keyAccept_frame]
  exact { hs with }

theorem setKey (hs : s.Inv) (k : KeyCode) (down : Bool) : (s.setKey k down).Inv := { hs with }

theorem decayTimers (hs : s.Inv) : s.decayTimers.Inv := by
  rw [s.decayTimers_frame]
  exact { hs with }

end State.Inv

/-- Reset's state meets the invariant in every instantiation the rules are written for. -/
theorem State.resetWith_inv {c : Config} (hc : c.wellFormed = true) : (State.resetWith c).Inv where
  config := hc
  memory := Memory.wf_nil
  display := (State.resetWith c).clearDisplay_fits
  stack _ _ := Nat.zero_le _
  pc := show (0x200 : Word).toNat ≤ 4350 by decide
  returns := nofun

/-! ### Instructions, Step and Tick -/

/-- Every instruction that completes after a fetch, so with pc at most 4096, keeps the invariant. -/
theorem exec_keepsInv {i : Instr} (hs : s.Inv) (hpc : s.pc.toNat ≤ 4096) (h : exec i s = .next t) : t.Inv := by
  have written := exec_writesOnlyNamed h
  have outside := exec_keepsOutside h
  cases i with
  | jp nnn => cases h; exact hs.setPc ((addrOperand_le nnn).trans (by decide))
  | jpV0 => cases h; exact hs.setPc (jpV0Target_le _ _ _)
  | seImm | sneImm | sne5 | sneReg => cases h; exact hs.skipIf hpc _
  | skp => obtain ⟨k, -, rfl⟩ := execSkp_cases h; exact hs.skipIf hpc _
  | sknp => obtain ⟨k, -, rfl⟩ := execSknp_cases h; exact hs.skipIf hpc _
  | ret =>
    obtain ⟨u, w, hpop, rfl⟩ := execRet_cases h
    obtain ⟨hu, hw⟩ := hs.pop hpop
    exact hu.setPc (hw.trans (by decide))
  | call nnn =>
    obtain ⟨u, hpush, rfl⟩ := execCall_cases h
    exact (hs.push hpc hpush).setPc ((addrOperand_le nnn).trans (by decide))
  | cls => cases h; exact hs.clearDisplay
  | drw =>
    obtain ⟨rows, drawn, -, rfl, rfl⟩ := execDrw_cases h
    exact { hs.toggleAll _ with }
  | ldB | ldMemVx => exact hs.storeCells (finish_eq_next.mp h)
  | ldImm | addImm | ldReg | orReg | andReg | xorReg | addReg | subReg | shr | subn | shl | rnd | ldI | ldF | addI
  | ldVxDT | ldVxK | ldDTVx | ldSTVx | ldVxMem =>
    exact hs.of_eq outside.cfg (written.mem rfl) (written.display rfl).1 (written.stack rfl) (written.pc rfl)

/-- Every Step keeps the invariant: a fetch needs both cells of the opcode, so pc is at most 4096 after the advance. -/
theorem step_keepsInv (hs : s.Inv) (h : step s = .next t) : t.Inv := by
  have advanced (hf : s.canFetch) : s.advancePc.Inv := hs.setPc (hf.advancePc_le.trans (by decide))
  obtain ⟨-, rfl⟩ | ⟨hf, i, -, hexec⟩ | ⟨hf, r, -, rfl⟩ := step_cases h
  · exact hs
  · exact exec_keepsInv (advanced hf) hf.advancePc_le hexec
  · exact { advanced hf with }

theorem tick_keepsInv (hs : s.Inv) (h : tick s = .next t) : t.Inv := by
  obtain ⟨u, hu, rfl⟩ := tick_cases h
  exact (steps_keeps step_keepsInv hs hu).decayTimers

end Sys2Proof.Machine
end

section
open Sys2Proof Sys2Proof.Machine

/-- Settles O12: every Step keeps the invariant, whatever it fetches. -/
theorem stepKeepsTheInvariant : Obligations.StepKeepsTheInvariant := fun _ _ => step_keepsInv

/-- Settles O13: Step and Tick by O12's lemma, key events by what they write, LoadProgram by its stores, Reset from the
parameters alone. -/
theorem hostOperationsKeepTheInvariant : Obligations.HostOperationsKeepTheInvariant := by
  refine ⟨fun op s t hs h => ?_, fun bytes s t hs h => hs.storeCells (loadProgram_cases h),
    fun s hs => State.resetWith_inv hs.config⟩
  cases op with
  | step => exact step_keepsInv hs h
  | tick => exact tick_keepsInv hs h
  | keyAccept k => cases h; exact hs.keyAccept k
  | keyDown k => cases h; exact (hs.setKey k true).keyAccept k
  | keyUp k => cases h; exact hs.setKey k false

/-- Settles O22: Reset is Running at 0x200, so the first fetch is of the cells there. -/
theorem resetEntersAt0x200 : Obligations.ResetEntersAt0x200 :=
  ⟨rfl, fun _ => ⟨rfl, ⟨rfl, show (0x200 : Word).toNat + 1 < 4096 by decide⟩, rfl⟩⟩

end

section
/-! SUPPORT. Memory under instructions and fetches: the cells an instruction stores to (20_memory.md R65), the fetch of
an encoded instruction (R63; 40_cycle.md R122) and the fetch that leaves memory (R61). -/

namespace Sys2Proof

/-- Decoding inverts encoding: the family selects the format, whose fields are the operands (30_encoding.md R91 to R94). -/
theorem decode_encode (i : Instr) : decode (encode i) = .ok i := by
  cases i with
  | cls | ret => rfl
  | jp | call | ldI | jpV0 | seImm | sneImm | ldImm | addImm | rnd | drw => simp [encode, decode]
  | sne5 => simp [encode, decode, decodeFam5]
  | ldReg | orReg | andReg | xorReg | addReg | subReg | shr | subn | shl => simp [encode, decode, decodeFam8]
  | sneReg => simp [encode, decode, decodeFam9]
  | skp | sknp => simp [encode, decode, decodeFamE]
  | ldVxDT | ldVxK | ldDTVx | ldSTVx | addI | ldF | ldB | ldMemVx | ldVxMem => simp [encode, decode, decodeFamF]

end Sys2Proof

namespace Sys2Proof.Machine

variable {s t : State} {i : Instr}

/-! ### Stores -/

/-- Completed stores put the bytes into the cells from `addr`. -/
theorem State.storeCells_mem {a : Word} {addr : Nat} {bytes : List Byte} (h : s.storeCells a addr bytes = .ok t) :
    t.mem = Memory.writeAll s.cfg.font s.mem addr bytes := by
  by_cases hempty : bytes = []
  · subst hempty; cases h; rfl
  · by_cases hrange : addr + bytes.length ≤ memSize
    · rw [s.storeCells_ok hrange] at h
      cases h
      rfl
    · rw [s.storeCells_error hempty (by omega)] at h
      cases h

/-- A cell outside the range stored to reads as before. -/
theorem Memory.read_writeAll_of_outside {font : Font} (cells : List Host.Cell) {addr other : Nat} {bytes : List Byte}
    (h : other < addr ∨ addr + bytes.length ≤ other) :
    Memory.read font (Memory.writeAll font cells addr bytes) other = Memory.read font cells other := by
  rw [Memory.read_writeAll]
  split_ifs with hle
  · exact List.getD_eq_default _ _ (by omega)
  · rfl

/-- A completed instruction stored `storedCells` bytes from `I` on: three digits, `V[0]` to `V[x]`, or none. -/
theorem exec_mem (h : exec i s = .next t) :
    ∃ bytes : List Byte, bytes.length = storedCells i ∧
      t.mem = Memory.writeAll s.cfg.font s.mem (s.effAddr 0) bytes := by
  cases i with
  | ldB x => exact ⟨decimalDigits (s.reg x), rfl, State.storeCells_mem (finish_eq_next.mp h)⟩
  | ldMemVx x =>
    exact ⟨s.regsUpTo x, by simp [State.regsUpTo, storedCells], State.storeCells_mem (finish_eq_next.mp h)⟩
  | _ => exact ⟨[], rfl, (exec_writesOnlyNamed h).mem rfl⟩

/-! ### Fetches -/

/-- A Step that can fetch executes what the opcode at pc decodes to, with pc advanced (40_cycle.md R122, R123). -/
theorem step_of_decode (hs : s.canFetch) (hi : decode s.opcodeAtPc = .ok i) : step s = exec i s.advancePc := by
  simp [step, hs.1, State.fetchOpcode_ok hs, hi]

/-- A Step whose fetch leaves memory is the fetch's fault (20_memory.md R61). -/
theorem step_of_fetch_error (hs : s.paused = false) (hpc : memSize ≤ s.pc.toNat + 1) :
    step s = .fault (.memoryOutOfBounds s.pc (max s.pc.toNat memSize)) := by
  simp [step, hs, s.fetchOpcode_eq, Nat.not_lt.mpr hpc]

/-- The opcode at pc is `w` where the two cells there hold its bytes, the high byte first (20_memory.md R63). -/
theorem State.opcodeAtPc_of_bytes {w : Word} (hi : s.cell s.pc.toNat = hiByte w)
    (lo : s.cell (s.pc.toNat + 1) = loByte w) : s.opcodeAtPc = w := by
  rw [State.opcodeAtPc, hi, lo, opcodeOf_bytes]

end Sys2Proof.Machine
end

section
open Sys2Proof Sys2Proof.Machine

/-- Settles O16: the bytes an instruction stores, `storedCells` of them from `I` on, leave every other cell alone. -/
theorem onlyStoredCellsAreWritten : Obligations.OnlyStoredCellsAreWritten := by
  intro i s t addr h outside
  obtain ⟨bytes, hlen, hmem⟩ := exec_mem h
  rw [State.cell, (exec_keepsOutside h).cfg, hmem]
  exact Memory.read_writeAll_of_outside s.mem (hlen ▸ outside)

/-- Settles O7: the two cells make up the encoded opcode, which decodes to the instruction. -/
theorem stepRunsTheStoredInstruction : Obligations.StepRunsTheStoredInstruction := by
  intro s i hs hi lo
  exact step_of_decode hs (by rw [State.opcodeAtPc_of_bytes hi lo, decode_encode])

/-- Settles O10: from pc 4095 on the fetch's second cell does not exist. -/
theorem fetchPastMemoryFaults : Obligations.FetchPastMemoryFaults :=
  fun _ hs hpc => step_of_fetch_error hs (Nat.succ_le_succ hpc)

end

section
/-! SUPPORT. The decoder against the opcode map: an opcode is built from its fields (30_encoding.md R91, R92), a decoded
word is the encoding of what it decoded to, and a row fixes the fields its mask covers (R94). -/

namespace Sys2Proof

variable {w : Word} {fam n : Nibble} {kk : Byte} {nnn : Addr12} {i : Instr}

/-! ### An opcode from its fields -/

theorem formatA_eq (hfam : opFam w = fam) (hnnn : opNNN w = nnn) : formatA fam nnn = w := by
  subst hfam hnnn
  exact (BitVec.extractLsb'_append_extractLsb'_eq_extractLsb' rfl).trans BitVec.extractLsb'_eq_self

theorem formatK_eq (hfam : opFam w = fam) (hkk : opKK w = kk) : formatK fam (opX w) kk = w := by
  subst hkk
  have hnnn : opX w ++ opKK w = opNNN w := BitVec.extractLsb'_append_extractLsb'_eq_extractLsb' rfl
  exact formatA_eq hfam hnnn.symm

theorem formatR_eq (hfam : opFam w = fam) (hn : opN w = n) : formatR fam (opX w) (opY w) n = w := by
  subst hn
  have hkk : opY w ++ opN w = opKK w := BitVec.extractLsb'_append_extractLsb'_eq_extractLsb' rfl
  exact formatK_eq hfam hkk.symm

/-! ### The decoder's answer -/

/-- The two answers a decoder may give of `w`: an instruction whose encoding is `w`, or `w` named as unknown. -/
inductive Decoded (w : Word) : Except Reject Instr → Prop
  | instr {i : Instr} (encoded : encode i = w) : Decoded w (.ok i)
  | unknown : Decoded w (.error (.unknownOpcode w))

theorem decodeFam0_decoded (hfam : opFam w = 0x0) : Decoded w (decodeFam0 w) := by
  fun_cases decodeFam0 w with
  | case3 => exact .unknown
  | _ hnnn => exact .instr (formatA_eq hfam hnnn)

theorem decodeFam5_decoded (hfam : opFam w = 0x5) : Decoded w (decodeFam5 w) := by
  fun_cases decodeFam5 w with
  | case2 => exact .unknown
  | _ hn => exact .instr (formatR_eq hfam hn)

theorem decodeFam8_decoded (hfam : opFam w = 0x8) : Decoded w (decodeFam8 w) := by
  fun_cases decodeFam8 w with
  | case10 => exact .unknown
  | _ hn => exact .instr (formatR_eq hfam hn)

theorem decodeFam9_decoded (hfam : opFam w = 0x9) : Decoded w (decodeFam9 w) := by
  fun_cases decodeFam9 w with
  | case2 => exact .unknown
  | _ hn => exact .instr (formatR_eq hfam hn)

theorem decodeFamE_decoded (hfam : opFam w = 0xE) : Decoded w (decodeFamE w) := by
  fun_cases decodeFamE w with
  | case3 => exact .unknown
  | _ hkk => exact .instr (formatK_eq hfam hkk)

theorem decodeFamF_decoded (hfam : opFam w = 0xF) : Decoded w (decodeFamF w) := by
  fun_cases decodeFamF w with
  | case10 => exact .unknown
  | _ hkk => exact .instr (formatK_eq hfam hkk)

theorem decode_decoded (w : Word) : Decoded w (decode w) := by
  fun_cases decode w with
  | case1 hfam => exact decodeFam0_decoded hfam
  | case6 hfam => exact decodeFam5_decoded hfam
  | case9 hfam => exact decodeFam8_decoded hfam
  | case10 hfam => exact decodeFam9_decoded hfam
  | case15 hfam => exact decodeFamE_decoded hfam
  | case16 hfam => exact decodeFamF_decoded hfam
  | case17 => exact .unknown
  | case14 hfam => exact .instr (formatR_eq hfam rfl)
  | case2 hfam | case3 hfam | case11 hfam | case12 hfam => exact .instr (formatA_eq hfam rfl)
  | case4 hfam | case5 hfam | case7 hfam | case8 hfam | case13 hfam => exact .instr (formatK_eq hfam rfl)

/-- Encoding inverts decoding: the decoder keeps every field it does not match (30_encoding.md R91). -/
theorem encode_of_decode (h : decode w = .ok i) : encode i = w := by
  cases h ▸ decode_decoded w with
  | instr encoded => exact encoded

/-- Only unknown opcodes are rejected (30_encoding.md R97). -/
theorem decode_error {r : Reject} (h : decode w = .error r) : r = .unknownOpcode w := by
  cases h ▸ decode_decoded w
  rfl

/-- Decoding consumes the two bytes of an encoded instruction and leaves the rest (30_encoding.md R90). -/
theorem decodeBytes_encodeBytes (i : Instr) (rest : List Byte) :
    decodeBytes (encodeBytes i ++ rest) = .ok (i, rest) := by
  simp [encodeBytes, decodeBytes, decode_encode]

/-! ### The rows of the opcode map -/

/-- A row that selects `w` fixes the fields its mask covers to those of its match word (30_encoding.md R94). -/
theorem OpcodeRow.field_of_selects {row : OpcodeRow} {start len : Nat}
    (covered : row.mask.extractLsb' start len = BitVec.allOnes len) (h : row.selects w = true) :
    w.extractLsb' start len = row.pattern.extractLsb' start len := by
  have hpattern : w &&& row.mask = row.pattern := eq_of_beq h
  rw [← hpattern, BitVec.extractLsb'_and, covered, BitVec.and_allOnes]

open Laws.MatchesOpcodeMap in
/-- Every instruction's row stands in the map and selects the instruction's encoding. -/
theorem matchesOpcodeMap_all (i : Instr) : Statement i := by
  cases i
  exacts [cls, ret, jp _, call _, seImm _ _, sneImm _ _, sne5 _ _, ldImm _ _, addImm _ _, ldReg _ _, orReg _ _,
    andReg _ _, xorReg _ _, addReg _ _, subReg _ _, shr _ _, subn _ _, shl _ _, sneReg _ _, ldI _, jpV0 _, rnd _ _,
    drw _ _ _, skp _, sknp _, ldVxDT _, ldVxK _, ldDTVx _, ldSTVx _, addI _, ldF _, ldB _, ldMemVx _, ldVxMem _]

theorem Instr.row_mem_opcodeMap (i : Instr) : i.row ∈ opcodeMap := (matchesOpcodeMap_all i).1

theorem Instr.row_selects_encode (i : Instr) : i.row.selects (encode i) = true := (matchesOpcodeMap_all i).2

/-- The match word of a row decodes to an instruction of the row. -/
theorem decode_pattern {row : OpcodeRow} (h : row ∈ opcodeMap) : (decode row.pattern).map Instr.row = .ok row := by
  revert row
  decide

/-- An instruction's row covers the family and the fields its family's decoder matches (30_encoding.md R95), so every
opcode it selects decodes to an instruction of the same row. -/
theorem decode_of_row_selects (h : i.row.selects w = true) : ∃ j, decode w = .ok j ∧ j.row = i.row := by
  have hfam : opFam w = opFam i.row.pattern := OpcodeRow.field_of_selects (by cases i <;> simp [Instr.row]) h
  rw [decode, hfam, decodeFam0, decodeFam5, decodeFam8, decodeFam9, decodeFamE, decodeFamF]
  cases i <;> rw [Instr.row] at h ⊢
  case jp | call | ldI | jpV0 | seImm | sneImm | ldImm | addImm | rnd | drw => exact ⟨_, rfl, rfl⟩
  case cls | ret =>
    have hnnn : opNNN w = _ := OpcodeRow.field_of_selects rfl h
    rw [hnnn]
    exact ⟨_, rfl, rfl⟩
  case sne5 | ldReg | orReg | andReg | xorReg | addReg | subReg | shr | subn | shl | sneReg =>
    have hn : opN w = _ := OpcodeRow.field_of_selects rfl h
    rw [hn]
    exact ⟨_, rfl, rfl⟩
  case skp | sknp | ldVxDT | ldVxK | ldDTVx | ldSTVx | addI | ldF | ldB | ldMemVx | ldVxMem =>
    have hkk : opKK w = _ := OpcodeRow.field_of_selects rfl h
    rw [hkk]
    exact ⟨_, rfl, rfl⟩

/-- An opcode that a row of the map selects decodes to an instruction of that row. -/
theorem decode_of_selects {row : OpcodeRow} (hrow : row ∈ opcodeMap) (h : row.selects w = true) :
    ∃ j, decode w = .ok j ∧ j.row = row := by
  have hpattern := decode_pattern hrow
  cases hi : decode row.pattern with
  | error => simp [hi, Except.map] at hpattern
  | ok i =>
    obtain rfl : i.row = row := by simpa [hi, Except.map] using hpattern
    exact decode_of_row_selects h

/-- A decoded opcode is selected by its instruction's row. -/
theorem row_selects_of_decode (h : decode w = .ok i) : i.row.selects w = true :=
  encode_of_decode h ▸ i.row_selects_encode

end Sys2Proof
end

section
open Sys2Proof

/-- Settles O1: no well-formedness is needed, the operands' types are the fields' own. -/
theorem encodeThenDecodeGivesTheInstruction : Obligations.EncodeThenDecodeGivesTheInstruction :=
  fun i rest _ => ⟨decode_encode i, decodeBytes_encodeBytes i rest⟩

/-- Settles O2: every field the decoder does not match is an operand. -/
theorem decodeThenEncodeGivesTheOpcode : Obligations.DecodeThenEncodeGivesTheOpcode :=
  fun _ _ => encode_of_decode

/-- Settles O3: what decodes is an encoding, so its instruction's row selects it; what a row selects decodes; what does
not decode is rejected as unknown. -/
theorem decodesExactlyWhatTheMapSelects : Obligations.DecodesExactlyWhatTheMapSelects := by
  intro w
  refine ⟨⟨fun ⟨i, hi⟩ => ⟨i.row, i.row_mem_opcodeMap, row_selects_of_decode hi⟩, fun ⟨row, hrow, h⟩ => ?_⟩,
    fun _ => row_selects_of_decode, fun unselected => ?_⟩
  · obtain ⟨j, hj, -⟩ := decode_of_selects hrow h
    exact ⟨j, hj⟩
  · cases hd : decode w with
    | ok i => exact absurd (row_selects_of_decode hd) (by simp [unselected i.row i.row_mem_opcodeMap])
    | error r => rw [decode_error hd]

/-- Settles O4: both rows are that of the one instruction the opcode decodes to. -/
theorem mapRowsAreDisjoint : Obligations.MapRowsAreDisjoint := by
  intro w row hrow row' hrow' h h'
  obtain ⟨j, hj, rfl⟩ := decode_of_selects hrow h
  obtain ⟨j', hj', rfl⟩ := decode_of_selects hrow' h'
  cases hj.symm.trans hj'
  rfl

/-- Settles O5: each word is the encoding of its instruction. -/
theorem writtenOutWordsDecode : Obligations.WrittenOutWordsDecode :=
  ⟨decode_encode .cls, decode_encode (.jp 0x234), decode_encode (.shr 0xA 0xB), decode_encode (.drw 1 2 5),
    decode_encode (.skp 1), decode_encode (.ldVxMem 2)⟩

end

section
/-! SUPPORT. The cycle (40_cycle.md): the four ways a Step begins (R122 to R125) and that none is refused, Ticks of a
machine that its Steps leave alone (R126, R127), key events by the pause state (R128 to R130), and LoadProgram (R121). -/

namespace Sys2Proof.Machine

variable {s t : State}

/-! ### Step -/

/-- AwaitingKey, a Step does nothing (40_cycle.md R125). -/
theorem step_of_paused (hs : s.paused = true) : step s = .next s := if_pos hs

/-- A Step that can fetch passes over an opcode that does not decode (40_cycle.md R124). -/
theorem step_of_decode_error {e : Reject} (hs : s.canFetch) (he : decode s.opcodeAtPc = .error e) :
    step s = .next (s.advancePc.unknownOpcode s.opcodeAtPc) := by
  simp [step, hs.1, State.fetchOpcode_ok hs, he]

/-- After the advance, the instruction's own address is where pc stood (log entry 27). -/
@[simp] theorem State.advancePc_instrAddr (s : State) : s.advancePc.instrAddr = s.pc := BitVec.add_sub_cancel s.pc 2

theorem finish_ne_refused (e : Except Fault State) (r : Refusal) : finish e ≠ .refused r := by
  cases e <;> exact nofun

/-- Every instruction has a meaning: it completes or faults in every state. -/
theorem exec_ne_refused (i : Instr) (s : State) (r : Refusal) : exec i s ≠ .refused r := by
  intro h
  cases i with
  | ret | call | subn | addI | drw | skp | sknp | ldVxMem =>
    simp only [exec, execRet, execCall, execSubn, execAddI, execDrw, execSkp, execSknp, execLdVxMem] at h
    split at h <;> cases h
  | ldB | ldMemVx => exact finish_ne_refused _ r h
  | cls | jp | jpV0 | seImm | sneImm | sne5 | sneReg | ldImm | addImm | ldReg | orReg | andReg | xorReg | addReg | subReg
  | shr | shl | rnd | ldI | ldF | ldVxDT | ldVxK | ldDTVx | ldSTVx => cases h

/-! ### Tick -/

/-- A Step that changes nothing may be repeated (70_reset_and_hazards.md R292). -/
theorem steps_of_step_self (hs : step s = .next s) (n : Nat) : steps n s = .next s := by
  induction n with
  | zero => rfl
  | succ n ih => rw [steps, hs]; exact ih

theorem tick_of_steps_next (h : steps s.cfg.stepsPerTick s = .next t) : tick s = .next t.decayTimers := by
  rw [tick, h]; rfl

theorem tick_of_steps_fault {f : Fault} (h : steps s.cfg.stepsPerTick s = .fault f) : tick s = .fault f := by
  rw [tick, h]; rfl

theorem State.decayTimers_of_paused (hs : s.paused = true) : s.decayTimers = s := if_pos hs

/-- The end of a Tick takes both timers down by one and stops at 0, unless AwaitingKey (40_cycle.md R126). -/
theorem State.decayTimers_toNat (s : State) :
    s.decayTimers.dt.toNat = (if s.paused then s.dt.toNat else s.dt.toNat - 1) ∧
    s.decayTimers.st.toNat = (if s.paused then s.st.toNat else s.st.toNat - 1) := by
  unfold State.decayTimers
  split_ifs
  · exact ⟨rfl, rfl⟩
  · exact ⟨decayed_toNat s.dt, decayed_toNat s.st⟩

/-! ### Key events -/

theorem keyAccept_of_paused (k : KeyCode) (hs : s.paused = true) :
    keyAccept k s = { s.setReg s.pending (k.setWidth 8) with paused := false } := if_pos hs

theorem keyAccept_of_running (k : KeyCode) (hs : s.paused = false) : keyAccept k s = s := by
  simp [keyAccept, hs]

theorem keyAccept_isKeyDown (k j : KeyCode) (s : State) : (keyAccept k s).isKeyDown j = s.isKeyDown j := by
  rw [keyAccept_frame]; rfl

/-- Running, a KeyDown sets the key's level and does no more (40_cycle.md R129). -/
theorem keyDown_of_running (k : KeyCode) (hs : s.paused = false) : keyDown k s = s.setKey k true :=
  keyAccept_of_running (s := s.setKey k true) k hs

/-! ### LoadProgram -/

/-- A core as Reset left it is Running. -/
theorem State.atReset.running (h : s.atReset) : s.paused = false := by rw [h]; rfl

/-- The cells stored to hold the bytes. -/
theorem Memory.read_writeAll_of_inside {font : Font} (cells : List Host.Cell) (addr : Nat) {bytes : List Byte} {k : Nat}
    (hk : k < bytes.length) : Memory.read font (Memory.writeAll font cells addr bytes) (addr + k) = bytes[k] := by
  rw [Memory.read_writeAll, if_pos (Nat.le_add_right addr k), Nat.add_sub_cancel_left, List.getD_eq_getElem _ _ hk]

theorem loadProgram_of_fits {bytes : List Byte} (hs : s.atReset) (hlen : bytes.length ≤ 3584) :
    loadProgram bytes s = .next { s with mem := Memory.writeAll s.cfg.font s.mem 0x200 bytes } := by
  rw [loadProgram_eq bytes hs]
  exact if_neg (Nat.not_lt.mpr hlen)

theorem loadProgram_of_tooLarge {bytes : List Byte} (hs : s.atReset) (hlen : 3584 < bytes.length) :
    loadProgram bytes s = .fault (.programTooLarge bytes.length) := by
  rw [loadProgram_eq bytes hs]
  exact if_pos hlen

end Sys2Proof.Machine
end

section
open Sys2Proof Sys2Proof.Machine

/-- Settles O6: the advance writes pc only. -/
theorem stepRunsTheDecodedInstruction : Obligations.StepRunsTheDecodedInstruction := fun _ _ => step_of_decode

/-- Settles O8: Step looks at the pause flag before it fetches. -/
theorem pausedStepChangesNothing : Obligations.PausedStepChangesNothing := fun _ => step_of_paused

/-- Settles O9: what no row selects does not decode; the event's address is pc before the advance. -/
theorem unknownOpcodeIsPassedOver : Obligations.UnknownOpcodeIsPassedOver := by
  intro s hs unselected
  obtain ⟨-, -, rejected⟩ := decodesExactlyWhatTheMapSelects s.opcodeAtPc
  rw [step_of_decode_error hs (rejected unselected), State.unknownOpcode, s.advancePc_instrAddr]
  rfl

/-- Settles O11: a Step is idle, a fetch fault, an instruction's own outcome or an unknown opcode passed over. -/
theorem stepNeverRefuses : Obligations.StepNeverRefuses := by
  intro s r h
  by_cases hpaused : s.paused = true
  · cases (step_of_paused hpaused).symm.trans h
  have hrunning : s.paused = false := Bool.eq_false_of_not_eq_true hpaused
  by_cases hpc : s.pc.toNat + 1 < memSize
  · have hs : s.canFetch := ⟨hrunning, hpc⟩
    cases hd : decode s.opcodeAtPc with
    | ok i => exact exec_ne_refused i s.advancePc r ((step_of_decode hs hd).symm.trans h)
    | error e => cases (step_of_decode_error hs hd).symm.trans h
  · cases (step_of_fetch_error hrunning (Nat.le_of_not_lt hpc)).symm.trans h

/-- Settles O24: the stores begin at 0x200 and write memory only; a key event writes key levels only, since the core is
Running after Reset. -/
theorem loadProgramCopiesTheBytes : Obligations.LoadProgramCopiesTheBytes := by
  refine ⟨fun bytes c keys => ?_, fun bytes s hs => if_neg hs, fun k s hs => ?_⟩
  · intro s
    have hs : s.atReset := rfl
    exact ⟨fun hlen => ⟨_, loadProgram_of_fits hs hlen, fun k hk => Memory.read_writeAll_of_inside s.mem 0x200 hk,
      fun addr outside => Memory.read_writeAll_of_outside s.mem outside, rfl⟩, loadProgram_of_tooLarge hs⟩
  · rw [keyDown_of_running k hs.running]
    exact ⟨State.setKey_atReset k true hs, State.setKey_atReset k false hs, keyAccept_of_running k hs.running⟩

/-- Settles O25: after the Steps the timers decay once; a fault of the Steps ends the Tick. -/
theorem tickDecrementsTheTimersOnce : Obligations.TickDecrementsTheTimersOnce := by
  refine fun s => ⟨fun t ht => ?_, fun f => tick_of_steps_fault⟩
  obtain ⟨dt, st⟩ := t.decayTimers_toNat
  exact ⟨t.decayTimers, tick_of_steps_next ht, dt, st, t.decayTimers_frame⟩

/-- Settles O26: neither the Steps nor the decay of the timers does anything while AwaitingKey. -/
theorem pausedTickChangesNothing : Obligations.PausedTickChangesNothing := by
  intro s hs
  rw [tick_of_steps_next (steps_of_step_self (step_of_paused hs) _), State.decayTimers_of_paused hs]

/-- Settles O28: a key-accept is one register write and the end of the pause. -/
theorem keyAcceptCompletesThePause : Obligations.KeyAcceptCompletesThePause := by
  refine fun k s => ⟨fun hs => ⟨?_, fun r => ?_, keyAccept_frame k s⟩, keyAccept_of_running k⟩
  · rw [keyAccept_of_paused k hs]
  · rw [keyAccept_of_paused k hs]
    exact s.setReg_reg s.pending r (k.setWidth 8)

/-- Settles O29: both set the key's level, and a KeyDown goes on to the key-accept, which writes no level. -/
theorem keyEventsSetTheKeyLevel : Obligations.KeyEventsSetTheKeyLevel := by
  refine fun k s => ⟨fun j => ?_, fun hs => ?_, fun hs => ?_, fun j => s.setKey_isKeyDown k j false, rfl⟩
  · rw [keyDown, keyAccept_isKeyDown, State.setKey_isKeyDown]
  · rw [keyDown_of_running k hs]
    rfl
  · rw [keyDown, keyAccept_of_paused k hs, keyAccept_of_paused (s := s.setKey k true) k hs]
    rfl

end

section
/-! SUPPORT. Control transfer (41_flow.md): where an address operand points (R142, R148), the branches of a conditional
skip (R140), and calls and returns by the state of the call stack (R141, R143). -/

namespace Sys2Proof.Machine

variable {s t : State} {nnn : Addr12}

/-! ### Targets of jumps -/

theorem addrOperand_toNat (nnn : Addr12) : (addrOperand nnn).toNat = nnn.toNat :=
  BitVec.toNat_setWidth_of_le (by decide)

/-- The sum of a 12-bit address and a byte fits 16 bits. -/
theorem jpV0Target_sum_toNat (nnn : Addr12) (v0 : Byte) : (jpV0Target .sum nnn v0).toNat = nnn.toNat + v0.toNat := by
  rw [jpV0Target, BitVec.toNat_add, BitVec.toNat_setWidth_of_le (by decide), BitVec.toNat_setWidth_of_le (by decide)]
  omega

theorem jpV0Target_referenceAnd_toNat (nnn : Addr12) (v0 : Byte) :
    (jpV0Target .referenceAnd nnn v0).toNat = nnn.toNat &&& (0xFFF + v0.toNat) % 65536 := by
  rw [jpV0Target, BitVec.toNat_and, BitVec.toNat_add, BitVec.toNat_setWidth_of_le (by decide),
    BitVec.toNat_setWidth_of_le (by decide)]
  rfl

/-! ### Conditional skips -/

theorem State.skipIf_beq (s : State) (a b : Byte) :
    s.skipIf (a == b) = { s with pc := if a = b then s.pc + 2 else s.pc } := by
  rw [s.skipIf_frame, s.skipIf_pc, if_congr beq_iff_eq rfl rfl]

theorem State.skipIf_bne (s : State) (a b : Byte) :
    s.skipIf (a != b) = { s with pc := if a = b then s.pc else s.pc + 2 } := by
  rw [s.skipIf_frame, s.skipIf_pc, if_congr bne_iff_ne rfl rfl, ite_not]

/-- Under the value this hardware takes, `5xy0` is `9xy0` (41_flow.md R146). -/
theorem execSne5_of_notEqual {x y : RegIx} (h : s.cfg.skip5Sense = .notEqual) : execSne5 x y s = execSneReg x y s := by
  rw [execSne5, h]; rfl

/-! ### Calls and returns -/

/-- A push finds room below a finite capacity and under none (10_state.md R27). -/
theorem State.push_of_room {w : Word} (room : ∀ c, s.cfg.stackCapacity = some c → s.stack.length < c) :
    s.push w = .ok { s with stack := s.stack ++ [w] } := by
  rw [s.push_eq w, if_neg]
  rintro ⟨c, hc, full⟩
  exact Nat.not_lt.mpr full (room c hc)

theorem State.push_of_full {w : Word} {c : Nat} (hc : s.cfg.stackCapacity = some c) (full : c ≤ s.stack.length) :
    s.push w = .error (.stackOverflow s.instrAddr) := by
  rw [s.push_eq w, if_pos ⟨c, hc, full⟩]

theorem execCall_of_room (room : ∀ c, s.cfg.stackCapacity = some c → s.stack.length < c) :
    execCall nnn s = .next { s with stack := s.stack ++ [s.pc], pc := addrOperand nnn } := by
  rw [execCall, State.push_of_room room]; rfl

theorem execCall_of_full {c : Nat} (hc : s.cfg.stackCapacity = some c) (full : c ≤ s.stack.length) :
    execCall nnn s = .fault (.stackOverflow s.instrAddr) := by
  rw [execCall, State.push_of_full hc full]

theorem execRet_of_concat {ws : List Word} {w : Word} (h : s.stack = ws ++ [w]) :
    execRet s = .next { s with stack := ws, pc := w } := by
  rw [execRet, s.pop_concat h]; rfl

theorem execRet_of_nil (h : s.stack = []) : execRet s = .fault (.stackUnderflow s.instrAddr) := by
  rw [execRet, s.pop_nil h]

/-- A Step on a call for which there is room (41_flow.md R143). -/
theorem step_call (hs : s.canFetch) (hcall : s.opcodeAtPc = encode (.call nnn))
    (room : ∀ c, s.cfg.stackCapacity = some c → s.stack.length < c) :
    step s = .next { s with stack := s.stack ++ [s.pc + 2], pc := addrOperand nnn } := by
  rw [step_of_decode hs (by rw [hcall, decode_encode])]
  exact execCall_of_room (s := s.advancePc) room

/-- A Step on a return for which there is an address (41_flow.md R141). -/
theorem step_ret {ws : List Word} {w : Word} (hs : s.canFetch) (hret : s.opcodeAtPc = encode .ret)
    (hstack : s.stack = ws ++ [w]) : step s = .next { s with stack := ws, pc := w } := by
  rw [step_of_decode hs (by rw [hret, decode_encode])]
  exact execRet_of_concat (s := s.advancePc) hstack

theorem steps_two (h : step s = .next t) : steps 2 s = step t := by
  rw [steps, h]
  change andThen (step t) .next = step t
  cases step t <;> rfl

end Sys2Proof.Machine
end

section
open Sys2Proof Sys2Proof.Machine

/-- Settles O33: the call pushes the advanced pc, so the state it leaves fetches `00EE` at `nnn` and pops that pc. -/
theorem callThenReturnComesBack : Obligations.CallThenReturnComesBack := by
  intro nnn s hs hcall inside hi lo room
  rw [← addrOperand_toNat nnn] at inside hi lo
  rw [steps_two (step_call hs hcall room)]
  exact step_ret ⟨hs.1, inside⟩ (State.opcodeAtPc_of_bytes hi lo) rfl

/-- Settles O30: a jump is one write of pc. -/
theorem jumpSetsPc : Obligations.JumpSetsPc :=
  fun nnn _ => ⟨decode_encode (.jp nnn), _, rfl, addrOperand_toNat nnn, rfl⟩

/-- Settles O31: a call is a push, which fails on a full stack only, and a jump. -/
theorem callPushesTheAdvancedPc : Obligations.CallPushesTheAdvancedPc :=
  fun nnn _ => ⟨fun room => ⟨_, execCall_of_room room, rfl, addrOperand_toNat nnn, rfl⟩, fun _ => execCall_of_full⟩

/-- Settles O32: a return is a pop, which fails on the empty stack only, and a jump to what it took. -/
theorem returnPopsIntoPc : Obligations.ReturnPopsIntoPc :=
  ⟨decode_encode .ret, fun _ => ⟨fun _ _ h => ⟨_, execRet_of_concat h, rfl⟩, execRet_of_nil⟩⟩

/-- Settles O34: both are skips, on equality and on its negation. -/
theorem skipsOnImmediate : Obligations.SkipsOnImmediate :=
  fun x kk s => ⟨decode_encode (.seImm x kk), decode_encode (.sneImm x kk), ⟨_, rfl, s.skipIf_beq (s.reg x) kk⟩,
    ⟨_, rfl, s.skipIf_bne (s.reg x) kk⟩⟩

/-- Settles O35: a register is never unequal to itself. -/
theorem skipsOnRegistersNotEqual : Obligations.SkipsOnRegistersNotEqual := by
  refine fun x y s => ⟨decode_encode (.sneReg x y), ⟨_, rfl, s.skipIf_bne (s.reg x) (s.reg y)⟩, ?_⟩
  have noSkip : s.skipIf (s.reg x != s.reg x) = s := by rw [s.skipIf_bne, if_pos rfl]
  exact congrArg _ noSkip

/-- Settles O36: whatever the sense, a skip writes pc only. -/
theorem skip5FollowsItsSense : Obligations.Skip5FollowsItsSense := by
  refine fun x y s => ⟨execSne5_of_notEqual, _, rfl, s.skipIf_frame _, fun h => ?_, fun h => ?_⟩
  · rw [h, skip5, s.skipIf_bne]
  · rw [h, skip5, s.skipIf_beq]

/-- Settles O37: the jump writes pc only, and each form is the target's own arithmetic. -/
theorem jumpV0FollowsItsForm : Obligations.JumpV0FollowsItsForm := by
  refine fun nnn s => ⟨_, rfl, rfl, fun h => ?_, fun h => ?_⟩
  · rw [h]
    exact jpV0Target_sum_toNat nnn (s.reg 0)
  · rw [h]
    exact jpV0Target_referenceAnd_toNat nnn (s.reg 0)

end

section
/-! SUPPORT. The ALU (42_alu.md): each result and flag as a number, the registers after one write and after the two
writes of a flag-writing instruction (R161), and the two outcomes of `8xy7` (R171). -/

namespace Sys2Proof.Machine

variable {s : State}

/-! ### Results and flags -/

theorem flagOf_toNat (p : Prop) [Decidable p] : (flagOf p).toNat = if p then 1 else 0 := by
  by_cases hp : p <;> simp [flagOf, hp]

theorem addResult_toNat (a b : Byte) : (addResult a b).toNat = (a.toNat + b.toNat) % 256 :=
  BitVec.toNat_ofNat _ 8

theorem carryFlag_toNat (a b : Byte) : (carryFlag a b).toNat = if 255 < a.toNat + b.toNat then 1 else 0 :=
  flagOf_toNat _

theorem subResult_toNat (a b : Byte) : (subResult a b).toNat = (a.toNat + 256 - b.toNat) % 256 := by
  rw [subResult, BitVec.toNat_sub]
  omega

/-- Without underflow nothing is reduced. -/
theorem subResult_toNat_of_le {a b : Byte} (h : b.toNat ≤ a.toNat) : (subResult a b).toNat = a.toNat - b.toNat :=
  BitVec.toNat_sub_of_le h

theorem greaterFlag_toNat (a b : Byte) : (greaterFlag a b).toNat = if b.toNat < a.toNat then 1 else 0 :=
  flagOf_toNat _

theorem shrFlag_toNat (a : Byte) : (shrFlag a).toNat = a.toNat % 2 :=
  Nat.and_one_is_mod a.toNat

theorem shrResult_toNat (a : Byte) : (shrResult a).toNat = a.toNat / 2 :=
  Nat.shiftRight_one a.toNat

/-- The masked bit is 0x80 exactly from 128 on (42_alu.md R172). -/
theorem shlFlag_toNat (a : Byte) : (shlFlag a).toNat = if 128 ≤ a.toNat then 128 else 0 := by
  have bit7 : a.toNat.testBit 7 = decide (128 ≤ a.toNat) := by
    rw [Nat.testBit_eq_decide_div_mod_eq]
    exact decide_eq_decide.mpr (by omega)
  rw [shlFlag, BitVec.toNat_and, show (0x80 : Byte).toNat = 2 ^ 7 from rfl, Nat.and_two_pow, bit7]
  by_cases h : 128 ≤ a.toNat <;> simp [h]

theorem shlResult_toNat (a : Byte) : (shlResult a).toNat = 2 * a.toNat % 256 := by
  rw [shlResult, BitVec.toNat_shiftLeft, Nat.shiftLeft_eq, Nat.pow_one, Nat.mul_comm]

/-! ### Register writes -/

theorem State.setReg_reg_toNat (s : State) (x r : RegIx) (b : Byte) :
    ((s.setReg x b).reg r).toNat = if r = x then b.toNat else (s.reg r).toNat := by
  rw [s.setReg_reg, apply_ite BitVec.toNat]

theorem State.setFlag_reg_toNat (s : State) (r : RegIx) (f : Byte) :
    ((s.setFlag f).reg r).toNat = if r = flagReg then f.toNat else (s.reg r).toNat :=
  s.setReg_reg_toNat flagReg r f

/-- The bits of a register after a write. -/
theorem State.setReg_reg_getLsbD (s : State) (x r : RegIx) (b : Byte) (k : Nat) :
    ((s.setReg x b).reg r).getLsbD k = if r = x then b.getLsbD k else (s.reg r).getLsbD k := by
  rw [s.setReg_reg, apply_ite (BitVec.getLsbD · k)]

/-! ### `8xy7` -/

theorem execSubn_of_underflow {x y : RegIx} {u : State} (hu : u = s.setFlag (greaterFlag (s.reg y) (s.reg x)))
    (h : (u.reg y).toNat < (u.reg x).toNat) : execSubn x y s = .fault (.arithmeticUnderflow s.instrAddr) := by
  subst hu
  exact if_pos h

theorem execSubn_of_le {x y : RegIx} {u : State} (hu : u = s.setFlag (greaterFlag (s.reg y) (s.reg x)))
    (h : (u.reg x).toNat ≤ (u.reg y).toNat) :
    execSubn x y s = .next (u.setReg x (subResult (u.reg y) (u.reg x))) := by
  subst hu
  exact if_neg (Nat.not_lt.mpr h)

end Sys2Proof.Machine
end

section
open Sys2Proof Sys2Proof.Machine

/-- Settles O43: the flag write decides both operands; with x = 15 the subtrahend is the flag, which is 1 only when
`V[y]` exceeds `V[x]`. -/
theorem subnSetsFlagThenSubtracts : Obligations.SubnSetsFlagThenSubtracts := by
  intro x y s a b c subtrahend minuend
  obtain ⟨u, hu⟩ : ∃ u, u = s.setFlag (greaterFlag (s.reg y) (s.reg x)) := ⟨_, rfl⟩
  have reg (r : RegIx) : (u.reg r).toNat = if r = flagReg then c else (s.reg r).toNat := by
    rw [hu, s.setFlag_reg_toNat, greaterFlag_toNat]
  have hx : (u.reg x).toNat = subtrahend := reg x
  have hy : (u.reg y).toNat = minuend := reg y
  refine ⟨fun h => execSubn_of_underflow hu (by rwa [hx, hy]), fun h => ?_, fun h => ?_⟩
  · have le : (u.reg x).toNat ≤ (u.reg y).toNat := by rwa [hx, hy]
    refine ⟨_, execSubn_of_le hu le, by rw [hu]; rfl, fun r => ?_⟩
    rw [u.setReg_reg_toNat, subResult_toNat_of_le le, hx, hy, reg r]
  · have subtrahendIsFlag : subtrahend = c := if_pos h
    by_cases hflag : y = flagReg
    · exact (subtrahendIsFlag.trans (if_pos hflag).symm).le
    · rw [subtrahendIsFlag, show minuend = b from if_neg hflag]
      simp only [c]
      split_ifs <;> omega

/-- Settles O38: each is one register write. -/
theorem loadsCopyIntoVx : Obligations.LoadsCopyIntoVx :=
  fun x y kk s => ⟨decode_encode (.ldImm x kk), decode_encode (.ldReg x y),
    ⟨_, rfl, fun r => s.setReg_reg x r kk, rfl⟩, ⟨_, rfl, fun r => s.setReg_reg x r (s.reg y), rfl⟩⟩

/-- Settles O39: one register write, of the sum's low byte. -/
theorem addImmediateWraps : Obligations.AddImmediateWraps := by
  refine fun x kk s => ⟨decode_encode (.addImm x kk), _, rfl, fun r => ?_, rfl⟩
  rw [s.setReg_reg_toNat, addResult_toNat]

/-- Settles O40: each is one register write, and the operations act on each bit alone. -/
theorem logicIsBitwiseWithoutFlag : Obligations.LogicIsBitwiseWithoutFlag := by
  refine fun x y s => ⟨⟨decode_encode (.orReg x y), decode_encode (.andReg x y), decode_encode (.xorReg x y)⟩,
    ⟨_, rfl, rfl, fun r k => ?_⟩, ⟨_, rfl, rfl, fun r k => ?_⟩, ⟨_, rfl, rfl, fun r k => ?_⟩⟩
  · rw [s.setReg_reg_getLsbD, BitVec.getLsbD_or]
  · rw [s.setReg_reg_getLsbD, BitVec.getLsbD_and]
  · rw [s.setReg_reg_getLsbD, BitVec.getLsbD_xor]

/-- Settles O41: the flag is written last, over a result in `V[15]`. -/
theorem addSetsResultThenCarry : Obligations.AddSetsResultThenCarry := by
  refine fun x y s => ⟨_, rfl, rfl, fun r => ?_⟩
  rw [State.setFlag_reg_toNat, carryFlag_toNat, s.setReg_reg_toNat, addResult_toNat]

/-- Settles O42: the flag is written first, so an operand in `V[15]` is the flag. -/
theorem subSetsFlagThenWraps : Obligations.SubSetsFlagThenWraps := by
  refine fun x y s => ⟨_, rfl, rfl, fun r => ?_⟩
  rw [State.setReg_reg_toNat, subResult_toNat, s.setFlag_reg_toNat x, s.setFlag_reg_toNat y, s.setFlag_reg_toNat r,
    greaterFlag_toNat]
  by_cases hx : x = flagReg <;> by_cases hy : y = flagReg <;> simp [hx, hy]

/-- Settles O44: the flag is written first; half of a flag of 0 or 1 is 0. -/
theorem shiftRightSetsBitOut : Obligations.ShiftRightSetsBitOut := by
  refine fun x y s => ⟨_, rfl, rfl, fun r => ?_⟩
  have halfFlag : (s.reg x).toNat % 2 / 2 = 0 := by omega
  rw [State.setReg_reg_toNat, shrResult_toNat, s.setFlag_reg_toNat x, s.setFlag_reg_toNat r, shrFlag_toNat,
    apply_ite (· / 2), halfFlag]

/-- Settles O45: the flag is written first; the double of a flag of 0 or 0x80 is 0 mod 256. -/
theorem shiftLeftSetsMaskedFlag : Obligations.ShiftLeftSetsMaskedFlag := by
  refine fun x y s => ⟨_, rfl, rfl, fun r => ?_⟩
  have doubleFlag : 2 * (if 128 ≤ (s.reg x).toNat then 128 else 0) % 256 = 0 := by split_ifs <;> rfl
  rw [State.setReg_reg_toNat, shlResult_toNat, s.setFlag_reg_toNat x, s.setFlag_reg_toNat r, shlFlag_toNat,
    apply_ite (2 * · % 256), doubleFlag]

/-- Settles O46: the draw is counted and one register written; a mask of 0 clears every bit. -/
theorem randomIsTheMaskedDraw : Obligations.RandomIsTheMaskedDraw := by
  refine fun x kk s => ⟨_, rfl, rfl, fun r hr => s.consumeDraw.setReg_reg_ne _ hr, fun k => ?_, fun hkk => ?_⟩
  · rw [State.setReg_reg_self, BitVec.getLsbD_and, State.nextDraw]
  · rw [State.setReg_reg_self, hkk]
    exact BitVec.and_zero

end

section
/-! SUPPORT. The index register and memory (43_index_memory.md): what `I` takes as a number (R191 to R193), and stores
and reads of the cells from `I` on, which fault as soon as one of them does not exist (R190, R194 to R196). -/

namespace Sys2Proof.Machine

variable {s : State} {x : RegIx}

/-! ### The index register -/

/-- Five times a byte fits 16 bits. -/
theorem glyphAddr_toNat (b : Byte) : (glyphAddr b).toNat = b.toNat * 5 :=
  Nat.mod_eq_of_lt (by omega)

theorem execAddI_of_fits (h : s.indexSum x ≤ 0xFFFF) :
    execAddI x s = .next (s.setI (BitVec.ofNat 16 (s.indexSum x))) :=
  if_neg (Nat.not_lt.mpr h)

theorem execAddI_of_overflow (h : 0xFFFF < s.indexSum x) : execAddI x s = .fault (.indexOverflow s.instrAddr) :=
  if_pos h

/-! ### The bytes stored -/

@[simp] theorem decimalDigits_length (b : Byte) : (decimalDigits b).length = 3 := rfl

/-- The digits of a byte, each a byte of its own (43_index_memory.md R194). -/
theorem decimalDigits_toNat (b : Byte) :
    (decimalDigits b)[0].toNat = b.toNat / 100 ∧ (decimalDigits b)[1].toNat = b.toNat / 10 % 10 ∧
      (decimalDigits b)[2].toNat = b.toNat % 10 := by
  have hb := b.isLt
  exact ⟨Nat.mod_eq_of_lt (by omega), Nat.mod_eq_of_lt (by omega), Nat.mod_eq_of_lt (by omega)⟩

@[simp] theorem State.regsUpTo_length (s : State) (x : RegIx) : (s.regsUpTo x).length = x.toNat + 1 := by
  simp [State.regsUpTo]

theorem State.regsUpTo_getElem (s : State) {x k : RegIx} (hk : k.toNat < (s.regsUpTo x).length) :
    (s.regsUpTo x)[k.toNat] = s.reg k := by
  simp [State.regsUpTo]

/-! ### Stores from `I` on -/

/-- The state after the bytes were stored to the cells `I`, `I + 1`, ... -/
def State.storeAtIndex (s : State) (bytes : List Byte) : State :=
  { s with mem := Memory.writeAll s.cfg.font s.mem (s.effAddr 0) bytes }

theorem State.storeAtIndex_cell_inside (s : State) {bytes : List Byte} {k : Nat} (hk : k < bytes.length) :
    (s.storeAtIndex bytes).cell (s.effAddr k) = bytes[k] :=
  Memory.read_writeAll_of_inside s.mem (s.effAddr 0) hk

theorem State.storeAtIndex_cell_outside (s : State) {bytes : List Byte} {n addr : Nat} (hlen : bytes.length = n + 1)
    (h : addr < s.effAddr 0 ∨ s.effAddr n < addr) : (s.storeAtIndex bytes).cell addr = s.cell addr :=
  Memory.read_writeAll_of_outside s.mem (by rw [hlen]; exact h)

/-- Stores complete when the last cell exists. -/
theorem State.storeCells_index_ok {bytes : List Byte} {n : Nat} (hlen : bytes.length = n + 1)
    (h : s.effAddr n < memSize) : s.storeCells s.instrAddr (s.effAddr 0) bytes = .ok (s.storeAtIndex bytes) :=
  s.storeCells_ok (by rw [hlen]; exact h)

/-- Stores fault when the last cell does not exist (43_index_memory.md R190). -/
theorem State.storeCells_index_error {bytes : List Byte} {n : Nat} (hlen : bytes.length = n + 1)
    (h : memSize ≤ s.effAddr n) :
    s.storeCells s.instrAddr (s.effAddr 0) bytes =
      .error (.memoryOutOfBounds s.instrAddr (max (s.effAddr 0) memSize)) :=
  s.storeCells_error (List.ne_nil_of_length_eq_add_one hlen) (by rw [hlen]; exact Nat.lt_succ_of_le h)

/-! ### Reads from `I` on -/

/-- Reads of `n` cells complete when the last cell exists. -/
theorem State.readCells_index_ok {n : Nat} (h : s.effAddr n ≤ memSize) :
    s.readCells s.instrAddr (s.effAddr 0) n = .ok ((List.range n).map fun k => s.cell (s.effAddr k)) :=
  s.readCells_ok h

/-- Reads of `n` cells fault when the last cell does not exist (43_index_memory.md R190). -/
theorem State.readCells_index_error {n : Nat} (hn : 0 < n) (h : memSize < s.effAddr n) :
    s.readCells s.instrAddr (s.effAddr 0) n = .error (.memoryOutOfBounds s.instrAddr (max (s.effAddr 0) memSize)) :=
  s.readCells_error hn h

/-- Bytes that end at `V[x]` fill the registers up to `x` (43_index_memory.md R196). -/
theorem State.setRegs_reg_upTo (s : State) {x r : RegIx} {bytes : List Byte} (hlen : bytes.length = x.toNat + 1)
    (hr : r.toNat ≤ x.toNat) : (s.setRegs 0 bytes).reg r = bytes[r.toNat] := by
  have := x.isLt
  rw [s.setRegs_reg bytes 0 r (by omega), if_pos (Nat.zero_le _), Nat.sub_zero, List.getD_eq_getElem _ _ (by omega)]

theorem execLdVxMem_of_fits (h : s.effAddr x.toNat < memSize) :
    execLdVxMem x s = .next (s.setRegs 0 ((List.range (x.toNat + 1)).map fun k => s.cell (s.effAddr k))) := by
  rw [execLdVxMem, State.readCells_index_ok (n := x.toNat + 1) h]

theorem execLdVxMem_of_past (h : memSize ≤ s.effAddr x.toNat) :
    execLdVxMem x s = .fault (.memoryOutOfBounds s.instrAddr (max (s.effAddr 0) memSize)) := by
  rw [execLdVxMem, State.readCells_index_error (Nat.succ_pos _) (Nat.lt_succ_of_le h)]

end Sys2Proof.Machine
end

section
open Sys2Proof Sys2Proof.Machine

/-- Settles O51: the registers are the bytes stored from `I` on. -/
theorem storeRegistersWritesTheRange : Obligations.StoreRegistersWritesTheRange := by
  intro x s
  have hlen := s.regsUpTo_length x
  refine ⟨fun h => ⟨_, congrArg finish (State.storeCells_index_ok hlen h), rfl, fun k hk => ?_, fun addr =>
    s.storeAtIndex_cell_outside hlen⟩, fun h => congrArg finish (State.storeCells_index_error hlen h)⟩
  have inside : k.toNat < (s.regsUpTo x).length := hlen ▸ Nat.lt_succ_of_le hk
  rw [s.storeAtIndex_cell_inside inside, s.regsUpTo_getElem inside]

/-- Settles O52: the cells from `I` on are the bytes that `V[0]` to `V[x]` take; the list ends at `V[x]`. -/
theorem loadRegistersReadsTheRange : Obligations.LoadRegistersReadsTheRange := by
  refine fun x s => ⟨fun h => ⟨_, execLdVxMem_of_fits h, s.setRegs_frame _ 0, fun r => ?_⟩, execLdVxMem_of_past⟩
  split_ifs with hr
  · rw [s.setRegs_reg_upTo (by simp) hr, List.getElem_map, List.getElem_range]
  · exact s.setRegs_reg_above (by simp) (Nat.lt_of_not_le hr)

/-- Settles O47: one write of `I`, of the address operand. -/
theorem loadIndexSetsI : Obligations.LoadIndexSetsI :=
  fun nnn _ => ⟨decode_encode (.ldI nnn), _, rfl, addrOperand_toNat nnn, rfl⟩

/-- Settles O48: a sum that fits is written to `I` unreduced, any other is the fault. -/
theorem addIndexAddsOrFaults : Obligations.AddIndexAddsOrFaults :=
  fun _ _ => ⟨fun h => ⟨_, execAddI_of_fits h, Nat.mod_eq_of_lt (Nat.lt_succ_of_le h), rfl⟩,
    execAddI_of_overflow⟩

/-- Settles O49: one write of `I`; the product is not reduced. -/
theorem glyphAddressIsFiveTimesVx : Obligations.GlyphAddressIsFiveTimesVx :=
  fun x s => ⟨decode_encode (.ldF x), _, rfl, glyphAddr_toNat (s.reg x), rfl⟩

/-- Settles O50: the three digits are the bytes stored from `I` on. -/
theorem storeDecimalWritesThreeDigits : Obligations.StoreDecimalWritesThreeDigits := by
  intro x s
  have hlen := decimalDigits_length (s.reg x)
  obtain ⟨hundreds, tens, ones⟩ := decimalDigits_toNat (s.reg x)
  have stored {k : Nat} (hk : k < (decimalDigits (s.reg x)).length) :=
    congrArg BitVec.toNat (s.storeAtIndex_cell_inside hk)
  exact ⟨fun h => ⟨_, congrArg finish (State.storeCells_index_ok hlen h), rfl, (stored _).trans hundreds,
    (stored _).trans tens, (stored _).trans ones, fun addr => s.storeAtIndex_cell_outside hlen⟩,
    fun h => congrArg finish (State.storeCells_index_error hlen h)⟩

end

section
/-! SUPPORT. The sprite of `Dxyn` (44_display.md R212): the pixels it covers are the pixels requested, each requested
once on a display wider than 8 and higher than 15 pixels, so that the toggles invert exactly these; and the two outcomes
of the instruction. -/

namespace Sys2Proof.Machine

variable {s : State} {x y : RegIx} {n : Nibble}

/-! ### The requests of a sprite -/

/-- Offsets below the modulus are told apart after the wrap (44_display.md R212). -/
theorem eq_of_add_mod_eq {v a b m : Nat} (ha : a < m) (hb : b < m) (h : (v + a) % m = (v + b) % m) : a = b :=
  Nat.ModEq.eq_of_lt_of_lt (Nat.ModEq.add_left_cancel' v h) ha hb

theorem mem_setColumns {b : Byte} {c : Nat} : c ∈ setColumns b ↔ c < 8 ∧ b.getLsbD (7 - c) = true := by
  rw [setColumns, List.mem_filter, List.mem_range]

theorem mem_spriteRow {cfg : Config} {vx vy r : Nat} {b : Byte} {p : Nat × Nat} :
    p ∈ spriteRow cfg vx vy r b ↔
      ∃ c, c < 8 ∧ b.getLsbD (7 - c) = true ∧ p.1 = (vx + c) % cfg.displayW ∧ p.2 = (vy + r) % cfg.displayH := by
  simp only [spriteRow, List.mem_map, mem_setColumns, Prod.ext_iff, and_assoc, eq_comm]

/-- A requested pixel is one of the row `r + k` that the `k`-th byte gives. -/
theorem mem_spritePixels {cfg : Config} {vx vy r : Nat} {rows : List Byte} {p : Nat × Nat} :
    p ∈ spritePixels cfg vx vy r rows ↔ ∃ k, ∃ hk : k < rows.length, p ∈ spriteRow cfg vx vy (r + k) rows[k] := by
  induction rows generalizing r with
  | nil => simp [spritePixels]
  | cons b bs ih =>
    rw [spritePixels, List.mem_append, ih]
    constructor
    · rintro (hp | ⟨k, hk, hp⟩)
      · exact ⟨0, Nat.succ_pos _, hp⟩
      · exact ⟨k + 1, Nat.succ_lt_succ hk, by rwa [← Nat.add_assoc, Nat.add_right_comm]⟩
    · rintro ⟨_ | k, hk, hp⟩
      · exact .inl hp
      · exact .inr ⟨k, Nat.lt_of_succ_lt_succ hk, by rwa [Nat.add_assoc, Nat.add_comm 1]⟩

theorem spriteRow_nodup {cfg : Config} (hw : 8 ≤ cfg.displayW) (vx vy r : Nat) (b : Byte) :
    (spriteRow cfg vx vy r b).Nodup := by
  refine (List.nodup_range.filter _).map_on fun c hc d hd h => ?_
  have hc := (mem_setColumns.mp hc).1
  have hd := (mem_setColumns.mp hd).1
  exact eq_of_add_mod_eq (hc.trans_le hw) (hd.trans_le hw) (congrArg Prod.fst h)

/-- No pixel is requested twice: within a row the columns differ, and the rows are not more than the display has. -/
theorem spritePixels_nodup {cfg : Config} (hw : 8 ≤ cfg.displayW) (vx vy : Nat) {r : Nat} {rows : List Byte}
    (hh : r + rows.length ≤ cfg.displayH) : (spritePixels cfg vx vy r rows).Nodup := by
  induction rows generalizing r with
  | nil => exact List.nodup_nil
  | cons b bs ih =>
    rw [List.length_cons] at hh
    refine (spriteRow_nodup hw vx vy r b).append (ih (by omega)) fun p hrow hrest => ?_
    obtain ⟨k, hk, hrest⟩ := mem_spritePixels.mp hrest
    obtain ⟨-, -, -, -, hy⟩ := mem_spriteRow.mp hrow
    obtain ⟨-, -, -, -, hy'⟩ := mem_spriteRow.mp hrest
    have sameRow : r = r + 1 + k := eq_of_add_mod_eq (by omega) (by omega) (hy.symm.trans hy')
    omega

/-- The pixels the sprite covers are those that `Dxyn` requests. -/
theorem State.mem_spriteRequests {px py : Nat} : (px, py) ∈ s.spriteRequests x y n ↔ s.spriteCovers x y n px py := by
  simp only [State.spriteRequests, State.spriteCovers, mem_spritePixels, mem_spriteRow, List.length_map,
    List.length_range, List.getElem_map, List.getElem_range, Nat.zero_add, exists_prop, exists_and_left]

/-- The display is wider than a sprite's row and higher than a sprite (44_display.md R212). -/
theorem State.Inv.spriteSmaller (hs : s.Inv) : 8 < s.cfg.displayW ∧ 15 < s.cfg.displayH := by
  have hcfg := hs.config
  simp only [Config.wellFormed, Bool.and_eq_true, decide_eq_true_eq, and_assoc] at hcfg
  exact hcfg.2

theorem State.Inv.spriteRequests_nodup (hs : s.Inv) : (s.spriteRequests x y n).Nodup := by
  obtain ⟨hw, hh⟩ := hs.spriteSmaller
  exact spritePixels_nodup hw.le _ _ (by rw [List.length_map, List.length_range]; omega)

theorem State.Inv.spriteRequests_inRange (hs : s.Inv) :
    ∀ p ∈ s.spriteRequests x y n, p.1 < s.cfg.displayW ∧ p.2 < s.cfg.displayH := by
  obtain ⟨hw, hh⟩ := hs.spriteSmaller
  exact spritePixels_inRange (by omega) (by omega) _ _ _ _

/-! ### Toggling pixels that are requested once -/

/-- Each requested pixel is inverted and no other. -/
theorem State.toggleAll_pixel (hs : s.displayFits) {pixels : List (Nat × Nat)} (once : pixels.Nodup)
    (inRange : ∀ p ∈ pixels, p.1 < s.cfg.displayW ∧ p.2 < s.cfg.displayH) (qx qy : Nat) :
    (s.toggleAll pixels).1.pixel qx qy = if (qx, qy) ∈ pixels then !s.pixel qx qy else s.pixel qx qy := by
  induction pixels generalizing s with
  | nil => rfl
  | cons p ps ih =>
    obtain ⟨hp, once⟩ := List.nodup_cons.mp once
    obtain ⟨⟨hx, hy⟩, inRange⟩ := List.forall_mem_cons.mp inRange
    have rest := ih (s.togglePixel_fits hs p.1 p.2) once inRange
    rw [s.togglePixel_pixel hs hx hy] at rest
    refine rest.trans ?_
    by_cases hq : (qx, qy) = p
    · subst hq
      simp [hp]
    · have hq' : ¬(qx = p.1 ∧ qy = p.2) := fun e => hq (Prod.ext e.1 e.2)
      simp [hq, hq']

/-- The answer is whether a requested pixel was on before the first request. -/
theorem State.toggleAll_answer (hs : s.displayFits) {pixels : List (Nat × Nat)} (once : pixels.Nodup)
    (inRange : ∀ p ∈ pixels, p.1 < s.cfg.displayW ∧ p.2 < s.cfg.displayH) :
    (s.toggleAll pixels).2 = true ↔ ∃ px py, (px, py) ∈ pixels ∧ s.pixel px py = true := by
  induction pixels generalizing s with
  | nil => simp [State.toggleAll]
  | cons p ps ih =>
    obtain ⟨hp, once⟩ := List.nodup_cons.mp once
    obtain ⟨⟨hx, hy⟩, inRange⟩ := List.forall_mem_cons.mp inRange
    have untouched {qx qy : Nat} (hq : (qx, qy) ∈ ps) : (s.togglePixel p.1 p.2).pixel qx qy = s.pixel qx qy := by
      rw [s.togglePixel_pixel hs hx hy, if_neg fun e => hp (by rwa [e.1, e.2] at hq)]
    rw [State.toggleAll, Bool.or_eq_true, State.toggleAnswer, ih (s.togglePixel_fits hs p.1 p.2) once inRange]
    constructor
    · rintro (hon | ⟨qx, qy, hq, hon⟩)
      · exact ⟨p.1, p.2, List.mem_cons_self, hon⟩
      · exact ⟨qx, qy, List.mem_cons_of_mem _ hq, untouched hq ▸ hon⟩
    · rintro ⟨qx, qy, hq, hon⟩
      obtain rfl | hq := List.mem_cons.mp hq
      · exact .inl hon
      · exact .inr ⟨qx, qy, hq, (untouched hq).trans hon⟩

/-- Two bitmaps of the display's size with the same pixels are the same. -/
theorem State.display_ext {t : State} (hs : s.displayFits) (ht : t.displayFits) (hcfg : t.cfg = s.cfg)
    (hpixel : ∀ px py, t.pixel px py = s.pixel px py) : t.display = s.display := by
  obtain ⟨rows, columns⟩ := hs
  obtain ⟨rows', columns'⟩ := ht
  refine List.ext_getElem (by rw [rows', rows, hcfg]) fun py hy' hy => ?_
  refine List.ext_getElem ?_ fun px hx' hx => ?_
  · rw [columns' _ (List.getElem_mem hy'), columns _ (List.getElem_mem hy), hcfg]
  · have same := hpixel px py
    rwa [State.pixel, State.pixel, List.getD_eq_getElem _ _ hy', List.getD_eq_getElem _ _ hy,
      List.getD_eq_getElem _ _ hx', List.getD_eq_getElem _ _ hx] at same

/-! ### `Dxyn` -/

/-- The state after the sprite of `Dxyn` was drawn. -/
def State.drawSprite (s : State) (x y : RegIx) (n : Nibble) : State :=
  (s.toggleAll (s.spriteRequests x y n)).1.setFlag (flagOf (s.toggleAll (s.spriteRequests x y n)).2)

/-- `Dxyn` draws when it reads no cell or the last cell it reads exists. -/
theorem execDrw_of_fits (h : n = 0 ∨ s.effAddr n.toNat ≤ memSize) : execDrw x y n s = .next (s.drawSprite x y n) := by
  have hread : s.readCells s.instrAddr (s.effAddr 0) n.toNat =
      .ok ((List.range n.toNat).map fun r => s.cell (s.effAddr r)) := by
    obtain rfl | h := h
    · rfl
    · exact State.readCells_index_ok h
  rw [execDrw, hread]
  rfl

theorem execDrw_of_past (hn : n ≠ 0) (h : memSize < s.effAddr n.toNat) :
    execDrw x y n s = .fault (.memoryOutOfBounds s.instrAddr (max (s.effAddr 0) memSize)) := by
  have hpos : 0 < n.toNat := Nat.pos_of_ne_zero fun h0 => hn (BitVec.eq_of_toNat_eq h0)
  rw [execDrw, State.readCells_index_error hpos h]

/-- A `Dxyn` that completed found its cells and drew. -/
theorem drawSprite_of_execDrw {t : State} (h : execDrw x y n s = .next t) :
    (n = 0 ∨ s.effAddr n.toNat ≤ memSize) ∧ t = s.drawSprite x y n := by
  by_cases fits : n = 0 ∨ s.effAddr n.toNat ≤ memSize
  · rw [execDrw_of_fits fits] at h
    cases h
    exact ⟨fits, rfl⟩
  · obtain ⟨hn, past⟩ := not_or.mp fits
    rw [execDrw_of_past hn (Nat.lt_of_not_le past)] at h
    cases h

/-- A draw writes registers, the bitmap and the events only, and emits the requests in their order. -/
theorem State.drawSprite_frame (s : State) (x y : RegIx) (n : Nibble) :
    s.drawSprite x y n = { s with
      v := (s.drawSprite x y n).v
      display := (s.drawSprite x y n).display
      events := s.events ++ (s.spriteRequests x y n).map fun p => .displayToggle p.1 p.2 } := by
  rw [State.drawSprite, s.toggleAll_frame]
  rfl

/-- Of the registers a draw writes the flag only. -/
theorem State.drawSprite_reg_ne {r : RegIx} (hr : r ≠ flagReg) : (s.drawSprite x y n).reg r = s.reg r := by
  rw [State.drawSprite, State.setFlag, State.setReg_reg_ne _ _ hr, s.toggleAll_frame]
  rfl

/-- A draw at operands other than `V[15]` leaves what the next one requests. -/
theorem State.drawSprite_spriteRequests (hx : x ≠ flagReg) (hy : y ≠ flagReg) :
    (s.drawSprite x y n).spriteRequests x y n = s.spriteRequests x y n := by
  rw [State.spriteRequests, State.drawSprite_reg_ne hx, State.drawSprite_reg_ne hy, s.drawSprite_frame]
  rfl

theorem State.Inv.drawSprite (hs : s.Inv) : (s.drawSprite x y n).Inv := { hs.toggleAll _ with }

/-- Every covered pixel is inverted and no other. -/
theorem State.Inv.drawSprite_pixel (hs : s.Inv) (px py : Nat) :
    (s.drawSprite x y n).pixel px py = true ↔ (s.pixel px py = true ↔ ¬ s.spriteCovers x y n px py) := by
  rw [State.drawSprite, State.setFlag_pixel, State.toggleAll_pixel hs.display hs.spriteRequests_nodup
    hs.spriteRequests_inRange, ← State.mem_spriteRequests]
  split_ifs with hp <;> simp [hp]

theorem flagOf_eq_one {b : Bool} : flagOf b = 1 ↔ b = true := by cases b <;> decide

theorem flagOf_cases (b : Bool) : flagOf b = 1 ∨ flagOf b = 0 := by cases b <;> decide

theorem State.drawSprite_flag (s : State) (x y : RegIx) (n : Nibble) :
    (s.drawSprite x y n).reg flagReg = flagOf (s.toggleAll (s.spriteRequests x y n)).2 :=
  State.setReg_reg_self _ _ _

/-- The flag is the collision: a covered pixel was on. -/
theorem State.Inv.drawSprite_collision (hs : s.Inv) :
    (s.drawSprite x y n).reg flagReg = 1 ↔ ∃ px py, s.spriteCovers x y n px py ∧ s.pixel px py = true := by
  rw [s.drawSprite_flag, flagOf_eq_one, State.toggleAll_answer hs.display hs.spriteRequests_nodup
    hs.spriteRequests_inRange]
  simp only [State.mem_spriteRequests]

end Sys2Proof.Machine
end

section
open Sys2Proof Sys2Proof.Machine

/-- Settles O54: no pixel is requested twice, so each covered one is inverted once and answers as it was. -/
theorem drawInvertsTheSpritePixels : Obligations.DrawInvertsTheSpritePixels := by
  refine fun x y n s hs fits => ⟨_, execDrw_of_fits fits, fun px py _ _ => hs.drawSprite_pixel px py,
    hs.drawSprite_collision, ?_, fun r => State.drawSprite_reg_ne, s.drawSprite_frame x y n⟩
  rw [s.drawSprite_flag]
  exact flagOf_cases _

/-- Settles O56: the second draw covers the pixels of the first, so each is inverted twice. -/
theorem drawingTwiceRestoresTheDisplay : Obligations.DrawingTwiceRestoresTheDisplay := by
  intro x y n s t hs hx hy h
  obtain ⟨fits, rfl⟩ := drawSprite_of_execDrw h
  have ht : (s.drawSprite x y n).Inv := hs.drawSprite
  have sameFits : n = 0 ∨ (s.drawSprite x y n).effAddr n.toNat ≤ memSize := by
    rw [s.drawSprite_frame]
    exact fits
  have sameCfg : ((s.drawSprite x y n).drawSprite x y n).cfg = s.cfg := by
    rw [State.drawSprite_frame, s.drawSprite_frame]
  have sameCovers (px py : Nat) : (s.drawSprite x y n).spriteCovers x y n px py ↔ s.spriteCovers x y n px py := by
    rw [← State.mem_spriteRequests, State.drawSprite_spriteRequests hx hy, State.mem_spriteRequests]
  refine ⟨_, execDrw_of_fits sameFits, State.display_ext hs.display ht.drawSprite.display sameCfg fun px py => ?_, ?_⟩
  · rw [Bool.eq_iff_iff, ht.drawSprite_pixel, hs.drawSprite_pixel, sameCovers]
    tauto
  · rw [ht.drawSprite_collision]
    refine exists_congr fun px => exists_congr fun py => ?_
    rw [sameCovers, hs.drawSprite_pixel, ← Bool.not_eq_true]
    tauto

/-- Settles O53: a clear, which is what Reset does to the bitmap. -/
theorem clearTurnsEveryPixelOff : Obligations.ClearTurnsEveryPixelOff :=
  ⟨decode_encode .cls, fun s => ⟨_, rfl, s.clearDisplay_pixel, rfl, rfl⟩⟩

/-- Settles O55: the reads of the sprite's rows fault before anything is drawn. -/
theorem drawPastMemoryFaults : Obligations.DrawPastMemoryFaults :=
  fun _ _ _ _ => execDrw_of_past

end

section
/-! SUPPORT. The keypad (45_keypad_timers.md): the skips on a key's level and the key operand of `Ex9E` and `ExA1`
(R221, R222). -/

namespace Sys2Proof.Machine

variable {s : State} {x : RegIx} {k : KeyCode}

theorem State.skipIf_eq (s : State) (condition : Bool) :
    s.skipIf condition = { s with pc := if condition then s.pc + 2 else s.pc } := by
  rw [s.skipIf_frame, s.skipIf_pc]

/-- The skip of `ExA1`: its branches are those of `Ex9E` exchanged (R222). -/
theorem State.skipIf_not (s : State) (condition : Bool) :
    s.skipIf (!condition) = { s with pc := if condition then s.pc else s.pc + 2 } := by
  cases condition <;> exact s.skipIf_eq _

/-- A register that holds a key's code names that key. -/
theorem State.keyOperand_of_code (h : s.reg x = k.setWidth 8) : s.keyOperand x = .ok k := by
  have inRange : (s.reg x).toNat ≤ 15 := by rw [h, BitVec.toNat_setWidth_of_le (by decide)]; omega
  rw [s.keyOperand_ok inRange, h, BitVec.setWidth_setWidth_of_le k (by decide), BitVec.setWidth_eq]

theorem execSkp_of_code (h : s.reg x = k.setWidth 8) : execSkp x s = .next (s.skipIf (s.isKeyDown k)) := by
  rw [execSkp, State.keyOperand_of_code h]

theorem execSknp_of_code (h : s.reg x = k.setWidth 8) : execSknp x s = .next (s.skipIf (!s.isKeyDown k)) := by
  rw [execSknp, State.keyOperand_of_code h]

/-- No key has a code above 15 (spec decision D16, log entry 21). -/
theorem State.keyOperand_of_noKey (h : 15 < (s.reg x).toNat) :
    s.keyOperand x = .error (.keyOutOfRange s.instrAddr (s.reg x)) := if_pos h

theorem execSkp_of_noKey (h : 15 < (s.reg x).toNat) :
    execSkp x s = .fault (.keyOutOfRange s.instrAddr (s.reg x)) := by
  rw [execSkp, State.keyOperand_of_noKey h]

theorem execSknp_of_noKey (h : 15 < (s.reg x).toNat) :
    execSknp x s = .fault (.keyOutOfRange s.instrAddr (s.reg x)) := by
  rw [execSknp, State.keyOperand_of_noKey h]

end Sys2Proof.Machine
end

section
open Sys2Proof Sys2Proof.Machine

/-- Settles O57: both skip on the level of the key whose code `V[x]` holds, and a `V[x]` above 15 holds none. -/
theorem skipsOnKeyLevel : Obligations.SkipsOnKeyLevel :=
  fun _ s => ⟨fun k hk => ⟨⟨_, execSkp_of_code hk, s.skipIf_eq (s.isKeyDown k)⟩,
    ⟨_, execSknp_of_code hk, s.skipIf_not (s.isKeyDown k)⟩⟩, fun h => ⟨execSkp_of_noKey h, execSknp_of_noKey h⟩⟩

/-- Settles O58: one register write, of the delay timer. -/
theorem loadDelayReadsDT : Obligations.LoadDelayReadsDT :=
  fun x s => ⟨decode_encode (.ldVxDT x), _, rfl, fun r => s.setReg_reg x r s.dt, rfl⟩

/-- Settles O59: each is one write of its timer, of the register's byte. -/
theorem timerLoadsSetTheTimer : Obligations.TimerLoadsSetTheTimer :=
  fun x _ => ⟨decode_encode (.ldDTVx x), decode_encode (.ldSTVx x), ⟨_, rfl, rfl, rfl⟩, ⟨_, rfl, rfl, rfl⟩⟩

/-- Settles O60: `Fx0A` sets the pause and its register only, so Steps idle and the key-accept writes that register. -/
theorem awaitKeyThenAcceptSetsVx : Obligations.AwaitKeyThenAcceptSetsVx := by
  refine fun x s => ⟨s.awaitKey x, rfl, rfl, step_of_paused (s.awaitKey_paused x), fun k => ?_⟩
  obtain ⟨-, registers, frame⟩ := (keyAcceptCompletesThePause k (s.awaitKey x)).1 (s.awaitKey_paused x)
  exact ⟨registers, frame⟩

end

section
/-! SUPPORT. Faults (60_exceptions.md R240): each instruction that can fault raises one, which its own lemma names; the
fault table lists it, and lists one cause for an instruction. -/

namespace Sys2Proof.Machine

variable {s : State} {i : Instr} {f f' : Fault} {x y : RegIx}

/-! ### The operations that can fail -/

theorem finish_eq_fault {r : Except Fault State} : finish r = .fault f ↔ r = .error f := by
  cases r <;> simp [finish]

theorem State.keyOperand_fault (h : s.keyOperand x = .error f) : f = .keyOutOfRange s.instrAddr (s.reg x) := by
  unfold State.keyOperand at h
  split_ifs at h
  cases h
  rfl

/-- Stores from `I` on fault with the lowest address that does not exist (60_exceptions.md R243). -/
theorem State.storeCells_index_fault {bytes : List Byte} {n : Nat} (hlen : bytes.length = n + 1)
    (h : s.storeCells s.instrAddr (s.effAddr 0) bytes = .error f) :
    f = .memoryOutOfBounds s.instrAddr (max (s.effAddr 0) memSize) := by
  by_cases fits : s.effAddr n < memSize
  · cases (State.storeCells_index_ok hlen fits).symm.trans h
  · cases (State.storeCells_index_error hlen (Nat.le_of_not_lt fits)).symm.trans h
    rfl

/-! ### The instructions that can fault, faulted -/

theorem execRet_fault (h : execRet s = .fault f) : f = .stackUnderflow s.instrAddr := by
  obtain hs | ⟨ws, w, hs⟩ := s.stack.eq_nil_or_concat'
  · cases (execRet_of_nil hs).symm.trans h
    rfl
  · cases (execRet_of_concat hs).symm.trans h

theorem execCall_fault {nnn : Addr12} (h : execCall nnn s = .fault f) : f = .stackOverflow s.instrAddr := by
  rw [execCall, s.push_eq] at h
  split_ifs at h
  cases h
  rfl

theorem execSubn_fault (h : execSubn x y s = .fault f) : f = .arithmeticUnderflow s.instrAddr := by
  simp only [execSubn] at h
  split_ifs at h
  cases h
  rfl

theorem execAddI_fault (h : execAddI x s = .fault f) : f = .indexOverflow s.instrAddr := by
  unfold execAddI at h
  split_ifs at h
  cases h
  rfl

theorem execSkp_fault (h : execSkp x s = .fault f) : f = .keyOutOfRange s.instrAddr (s.reg x) := by
  unfold execSkp at h
  split at h <;> cases h
  exact State.keyOperand_fault ‹_›

theorem execSknp_fault (h : execSknp x s = .fault f) : f = .keyOutOfRange s.instrAddr (s.reg x) := by
  unfold execSknp at h
  split at h <;> cases h
  exact State.keyOperand_fault ‹_›

theorem execDrw_fault {n : Nibble} (h : execDrw x y n s = .fault f) :
    f = .memoryOutOfBounds s.instrAddr (max (s.effAddr 0) memSize) := by
  by_cases fits : n = 0 ∨ s.effAddr n.toNat ≤ memSize
  · cases (execDrw_of_fits fits).symm.trans h
  · obtain ⟨hn, past⟩ := not_or.mp fits
    cases (execDrw_of_past hn (Nat.lt_of_not_le past)).symm.trans h
    rfl

theorem execLdVxMem_fault (h : execLdVxMem x s = .fault f) :
    f = .memoryOutOfBounds s.instrAddr (max (s.effAddr 0) memSize) := by
  by_cases fits : s.effAddr x.toNat < memSize
  · cases (execLdVxMem_of_fits fits).symm.trans h
  · cases (execLdVxMem_of_past (Nat.le_of_not_lt fits)).symm.trans h
    rfl

theorem execLdB_fault (h : execLdB x s = .fault f) :
    f = .memoryOutOfBounds s.instrAddr (max (s.effAddr 0) memSize) :=
  State.storeCells_index_fault (decimalDigits_length (s.reg x)) (finish_eq_fault.mp h)

theorem execLdMemVx_fault (h : execLdMemVx x s = .fault f) :
    f = .memoryOutOfBounds s.instrAddr (max (s.effAddr 0) memSize) :=
  State.storeCells_index_fault (s.regsUpTo_length x) (finish_eq_fault.mp h)

/-! ### The fault table -/

/-- The fault table lists what an instruction raises, and what is raised records the instruction's address. -/
theorem exec_fault_listed (h : exec i s = .fault f) : mayRaise i f = true ∧ f.instruction = some s.instrAddr := by
  cases i with
  | ret => cases execRet_fault h; exact ⟨rfl, rfl⟩
  | call => cases execCall_fault h; exact ⟨rfl, rfl⟩
  | subn => cases execSubn_fault h; exact ⟨rfl, rfl⟩
  | addI => cases execAddI_fault h; exact ⟨rfl, rfl⟩
  | skp => cases execSkp_fault h; exact ⟨rfl, rfl⟩
  | sknp => cases execSknp_fault h; exact ⟨rfl, rfl⟩
  | drw => cases execDrw_fault h; exact ⟨rfl, rfl⟩
  | ldVxMem => cases execLdVxMem_fault h; exact ⟨rfl, rfl⟩
  | ldB => cases execLdB_fault h; exact ⟨rfl, rfl⟩
  | ldMemVx => cases execLdMemVx_fault h; exact ⟨rfl, rfl⟩
  | cls | jp | jpV0 | seImm | sneImm | sne5 | sneReg | ldImm | addImm | ldReg | orReg | andReg | xorReg | addReg | subReg
  | shr | shl | rnd | ldI | ldF | ldVxDT | ldVxK | ldDTVx | ldSTVx => cases h

/-- The fault table lists at most one cause for an instruction: in each of its rows one constructor of `Fault` fits. -/
theorem mayRaise_code_unique (h : mayRaise i f = true) (h' : mayRaise i f' = true) : f'.code = f.code := by
  unfold mayRaise at h
  split at h <;> cases h
  all_goals
    cases f' <;> cases h'
    rfl

end Sys2Proof.Machine
end

section
open Sys2Proof Sys2Proof.Machine

/-- Settles O19: what is raised stands in the fault table, which lists one cause for an instruction. -/
theorem faultsAreThoseOfTheTable : Obligations.FaultsAreThoseOfTheTable := by
  intro i s f h
  obtain ⟨listed, address⟩ := exec_fault_listed h
  refine ⟨listed, address, fun s' f' h' => ?_⟩
  obtain ⟨listed', -⟩ := exec_fault_listed h'
  exact mayRaise_code_unique listed listed'

/-- Settles O20: an instruction completes or raises a fault the table lists, and none is refused. -/
theorem faultlessInstructionsComplete : Obligations.FaultlessInstructionsComplete := by
  intro i s noCause
  cases h : exec i s with
  | next t => exact ⟨t, rfl⟩
  | fault f =>
    obtain ⟨listed, -⟩ := exec_fault_listed h
    simp [noCause f] at listed
  | refused r => exact absurd h (exec_ne_refused i s r)

/-- Settles O21: no instruction but `Fx0A` writes the pause flag; while AwaitingKey, a Step and a Tick are idle and a
KeyUp writes a key level. -/
theorem pauseIsEnteredAndLeftOnlyAsNamed : Obligations.PauseIsEnteredAndLeftOnlyAsNamed := by
  refine ⟨fun i s t h running paused => ?_, fun op s t hs h => ?_⟩
  · by_contra other
    obtain ⟨kept, -⟩ := (exec_writesOnlyNamed h).pause (not_exists.mp other)
    simp [kept, running] at paused
  · cases op with
    | step => cases (step_of_paused hs).symm.trans h; exact .inl rfl
    | tick => cases (pausedTickChangesNothing s hs).symm.trans h; exact .inl rfl
    | keyUp k => cases h; exact .inl rfl
    | keyAccept k => exact .inr ⟨k, .inl rfl⟩
    | keyDown k => exact .inr ⟨k, .inr rfl⟩

end

section
/-! SUPPORT. Reset and the jump to itself (70_reset_and_hazards.md R280, R292): what each part of Reset's state reads as
(10_state.md R35 to R39), and that a jump to its own address leaves the machine where it is. -/

namespace Sys2Proof.Machine

variable {s : State} {font : Font} {addr : Nat}

/-! ### The state after Reset -/

/-- A cell of the glyph table reads as its byte of FONT until it is written (10_state.md R37). -/
theorem unlisted_of_font (h : addr < 80) : unlisted font addr = font[addr] := dif_pos h

/-- A cell above the glyph table reads as 0 until it is written (10_state.md R38). -/
theorem unlisted_above_font (h : 80 ≤ addr) : unlisted font addr = 0 := dif_neg (Nat.not_lt.mpr h)

/-- Reset lists no cell, so each reads as its reset content. -/
theorem State.resetWith_cell (c : Config) (addr : Nat) : (State.resetWith c).cell addr = unlisted c.font addr :=
  Memory.read_nil addr

theorem State.resetWith_reg (c : Config) (r : RegIx) : (State.resetWith c).reg r = 0 := Vector.getElem_replicate _

theorem State.resetWith_isKeyDown (c : Config) (k : KeyCode) : (State.resetWith c).isKeyDown k = false :=
  Vector.getElem_replicate _

/-- Reset's bitmap is the one a clear leaves. -/
theorem State.resetWith_pixel (c : Config) (px py : Nat) : (State.resetWith c).pixel px py = false :=
  (State.resetWith c).clearDisplay_pixel px py

/-- The cells 0 to 79 after Reset are FONT, byte by byte (10_state.md R37). -/
theorem State.resetWith_fontCells (c : Config) : (List.range 80).map (State.resetWith c).cell = c.font.toList := by
  refine List.ext_getElem (by simp) fun k hk _ => ?_
  have inFont : k < 80 := by simpa using hk
  rw [List.getElem_map, List.getElem_range, State.resetWith_cell, unlisted_of_font inFont, Vector.getElem_toList]

/-! ### The jump to itself -/

/-- A jump to the address it stands at takes pc back there and writes nothing else (70_reset_and_hazards.md R292). -/
theorem step_jumpToSelf {nnn : Addr12} (hs : s.canFetch) (hpc : s.pc = addrOperand nnn)
    (hjump : s.opcodeAtPc = encode (.jp nnn)) : step s = .next s := by
  rw [step_of_decode hs (by rw [hjump, decode_encode])]
  change execJp nnn s.advancePc = .next s
  rw [execJp, ← hpc]
  rfl

end Sys2Proof.Machine
end

section
open Sys2Proof Sys2Proof.Machine

/-- Settles O27: the jump leaves the state alone, so all Steps of the Tick do, and the decay of the timers remains. -/
theorem tickAtJumpToSelfOnlyDecrements : Obligations.TickAtJumpToSelfOnlyDecrements := by
  intro s nnn hs hpc hjump
  have still : step s = .next s := step_jumpToSelf hs hpc hjump
  obtain ⟨dt, st⟩ := s.decayTimers_toNat
  rw [hs.1] at dt st
  exact ⟨still, s.decayTimers, tick_of_steps_next (steps_of_step_self still _), dt, st, s.decayTimers_frame⟩

/-- Settles O14: Reset depends on the parameters alone, and the default ones are well formed. -/
theorem resetMeetsTheInvariant : Obligations.ResetMeetsTheInvariant :=
  ⟨State.resetWith_inv (by decide), fun _ => State.resetWith_inv, fun _ => State.resetWith_inv⟩

/-- Settles O23: the registers, the bitmap, the keys and memory read as Reset's values for every FONT; the default FONT is
the table of the 80 bytes. -/
theorem resetHoldsTheDecidedValues : Obligations.ResetHoldsTheDecidedValues := by
  refine ⟨rfl, fun _ => rfl, fun c => ?_, State.resetWith_fontCells defaultConfig⟩
  exact ⟨State.resetWith_reg c, rfl, rfl, rfl, rfl, rfl, rfl,
    fun addr h => (State.resetWith_cell c addr).trans (unlisted_of_font h),
    fun addr h => (State.resetWith_cell c addr).trans (unlisted_above_font h),
    State.resetWith_pixel c, State.resetWith_isKeyDown c, rfl⟩

end
